-- ==== Sys2Proof/Word.lean ====
section
/-! DEFINITION. The word types of the block (00_scope.md R6, R8): 32-bit words, bytes, and the 64-bit command word.
Every value is unsigned; BitVec addition is the spec's add32 (R9), which wraps with no carry and no flag. -/

namespace Sys2Proof

/-- A 32-bit word (R6). -/
abbrev Word := BitVec 32

/-- A byte (R8). -/
abbrev Byte := BitVec 8

/-- A command word `cmd[63:0]` (30_encoding.md R60). -/
abbrev CommandWord := BitVec 64

end Sys2Proof
end

