-- ==== Sys2Proof/Syntax.lean ====
section
/-! DEFINITION. The fourteen commands of 30_encoding.md R63, one constructor for each row of spec/opcode_table.json.
Operands are the fields of R61, taken unchanged: an index is the whole 24-bit idx field (a value outside its legal
range is the BAD_INDEX error of the command, not a reserved-field violation), a word or a block index the whole data field. -/

namespace Sys2Proof

/-- A command (30_encoding.md R61, R63). -/
inductive Instr where
  /-- MSG_CLEAR, op 0x01 (R84). -/
  | msgClear
  /-- MSG_APPEND b, op 0x02 (R85). -/
  | msgAppend (b : Byte)
  /-- PAD, op 0x03 (R86). -/
  | pad
  /-- H_INIT, op 0x10 (R129). -/
  | hInit
  /-- H_WRITE i, v, op 0x11 (R130). -/
  | hWrite (i : BitVec 24) (v : Word)
  /-- W_LOAD j, op 0x20 (R104). -/
  | wLoad (j : BitVec 32)
  /-- W_WRITE t, v, op 0x21 (R105). -/
  | wWrite (t : BitVec 24) (v : Word)
  /-- W_EXPAND, op 0x22 (R106). -/
  | wExpand
  /-- C_START, op 0x30 (R131). -/
  | cStart
  /-- C_ROUND, op 0x31 (R132). -/
  | cRound
  /-- C_FINISH, op 0x32 (R133). -/
  | cFinish
  /-- COMPRESS, op 0x33 (R135). -/
  | compress
  /-- BLOCK j, op 0x40 (R150). -/
  | block (j : BitVec 32)
  /-- HASH, op 0x41 (R151). -/
  | hash
  deriving DecidableEq, Repr

end Sys2Proof
end

