-- ==== Sys2Proof/WellFormed.lean ====
section
/-! DEFINITION. Which commands an assembler accepts (30_encoding.md R66): the index of H_WRITE is 0..7 and that of
W_WRITE is 0..63; every other operand is legal at each value of its field. An ill-formed command still has an encoding,
and the block answers it with BAD_INDEX (R61). -/

namespace Sys2Proof

/-- The operand ranges of R61 and R66. -/
def Instr.wellFormed : Instr → Bool
  | .hWrite i _ => decide (i.toNat ≤ 7)
  | .wWrite t _ => decide (t.toNat ≤ 63)
  | .msgClear => true
  | .msgAppend _ => true
  | .pad => true
  | .hInit => true
  | .wLoad _ => true
  | .wExpand => true
  | .cStart => true
  | .cRound => true
  | .cFinish => true
  | .compress => true
  | .block _ => true
  | .hash => true

end Sys2Proof
end

