-- ==== Sys2Proof/Decode.lean ====
section
/-! DEFINITION. Decoding and encoding of command words (30_encoding.md R60 to R65). Every 64-bit word either spells one
command or is rejected by the name of its error; the index range of H_WRITE and W_WRITE is checked by the command, not here
(R61), which agrees with the order of R165 since decoding errors come first (notes/assumptions/10.md). -/

namespace Sys2Proof

/-- Why a word spells no command (R62, R64). -/
inductive Rejection where
  /-- The opcode is not assigned (R64): ILLEGAL_OPCODE. -/
  | illegalOpcode
  /-- An assigned opcode with a nonzero bit in a must-be-zero field (R62): RESERVED_FIELD. -/
  | reservedField
  deriving DecidableEq, Repr

/-- `op = cmd[63:56]` (R60). -/
def opField (cmd : CommandWord) : BitVec 8 := cmd.extractLsb' 56 8

/-- `idx = cmd[55:32]` (R60). -/
def idxField (cmd : CommandWord) : BitVec 24 := cmd.extractLsb' 32 24

/-- `data = cmd[31:0]` (R60). -/
def dataField (cmd : CommandWord) : BitVec 32 := cmd.extractLsb' 0 32

/-- A command whose must-be-zero fields are zero, or RESERVED_FIELD (R62). -/
def requireZero (zero : Bool) (i : Instr) : Except Rejection Instr :=
  if zero then .ok i else .error .reservedField

/-- The idx field is zero. -/
def idxIsZero (cmd : CommandWord) : Bool := idxField cmd == 0

/-- The idx and data fields are zero, as a command without operands needs (R61). -/
def operandsAreZero (cmd : CommandWord) : Bool := idxField cmd == 0 && dataField cmd == 0

/-- The idx field and `data[31:8]` are zero, as MSG_APPEND needs (R61). -/
def byteOperandOnly (cmd : CommandWord) : Bool := idxField cmd == 0 && (dataField cmd).extractLsb' 8 24 == 0

/-- The decoder: total on the 2^64 words (R65). -/
def decode (cmd : CommandWord) : Except Rejection Instr :=
  match (opField cmd).toNat with
  | 0x01 => requireZero (operandsAreZero cmd) .msgClear
  | 0x02 => requireZero (byteOperandOnly cmd) (.msgAppend ((dataField cmd).extractLsb' 0 8))
  | 0x03 => requireZero (operandsAreZero cmd) .pad
  | 0x10 => requireZero (operandsAreZero cmd) .hInit
  | 0x11 => .ok (.hWrite (idxField cmd) (dataField cmd))
  | 0x20 => requireZero (idxIsZero cmd) (.wLoad (dataField cmd))
  | 0x21 => .ok (.wWrite (idxField cmd) (dataField cmd))
  | 0x22 => requireZero (operandsAreZero cmd) .wExpand
  | 0x30 => requireZero (operandsAreZero cmd) .cStart
  | 0x31 => requireZero (operandsAreZero cmd) .cRound
  | 0x32 => requireZero (operandsAreZero cmd) .cFinish
  | 0x33 => requireZero (operandsAreZero cmd) .compress
  | 0x40 => requireZero (idxIsZero cmd) (.block (dataField cmd))
  | 0x41 => requireZero (operandsAreZero cmd) .hash
  | _ => .error .illegalOpcode

/-- The opcode of a command (R63). It is the EOP value a failing command records (10_state.md R29). -/
def Instr.opcode : Instr → BitVec 8
  | .msgClear => 0x01
  | .msgAppend _ => 0x02
  | .pad => 0x03
  | .hInit => 0x10
  | .hWrite _ _ => 0x11
  | .wLoad _ => 0x20
  | .wWrite _ _ => 0x21
  | .wExpand => 0x22
  | .cStart => 0x30
  | .cRound => 0x31
  | .cFinish => 0x32
  | .compress => 0x33
  | .block _ => 0x40
  | .hash => 0x41

/-- The idx operand of a command, 0 where R61 says the field must be zero. -/
def Instr.idxOperand : Instr → BitVec 24
  | .hWrite i _ => i
  | .wWrite t _ => t
  | .msgClear => 0
  | .msgAppend _ => 0
  | .pad => 0
  | .hInit => 0
  | .wLoad _ => 0
  | .wExpand => 0
  | .cStart => 0
  | .cRound => 0
  | .cFinish => 0
  | .compress => 0
  | .block _ => 0
  | .hash => 0

/-- The data operand of a command, 0 where R61 says the field must be zero. -/
def Instr.dataOperand : Instr → BitVec 32
  | .msgAppend b => b.setWidth 32
  | .hWrite _ v => v
  | .wLoad j => j
  | .wWrite _ v => v
  | .block j => j
  | .msgClear => 0
  | .pad => 0
  | .hInit => 0
  | .wExpand => 0
  | .cStart => 0
  | .cRound => 0
  | .cFinish => 0
  | .compress => 0
  | .hash => 0

/-- The command word with the three fields of R60: op in bits 63:56, idx in bits 55:32, data in bits 31:0. -/
def assembleFields (op : BitVec 8) (idx : BitVec 24) (data : BitVec 32) : CommandWord := op ++ idx ++ data

/-- The encoder (R66: `op << 56 OR idx << 32 OR data`). -/
def encode (i : Instr) : CommandWord := assembleFields i.opcode i.idxOperand i.dataOperand

/-- A row of spec/opcode_table.json (R63): a word spells the command exactly when `cmd AND mask = match`. -/
structure OpcodeRow where
  mnemonic : String
  pattern : CommandWord
  mask : CommandWord
  deriving DecidableEq, Repr

/-- spec/opcode_table.json, row by row. The decoder is written from R60 to R64; that it agrees with this table is a
statement, not a definition. -/
def opcodeTable : List OpcodeRow :=
  [ ⟨"MSG_CLEAR", 0x0100000000000000, 0xffffffffffffffff⟩,
    ⟨"MSG_APPEND", 0x0200000000000000, 0xffffffffffffff00⟩,
    ⟨"PAD", 0x0300000000000000, 0xffffffffffffffff⟩,
    ⟨"H_INIT", 0x1000000000000000, 0xffffffffffffffff⟩,
    ⟨"H_WRITE", 0x1100000000000000, 0xff00000000000000⟩,
    ⟨"W_LOAD", 0x2000000000000000, 0xffffffff00000000⟩,
    ⟨"W_WRITE", 0x2100000000000000, 0xff00000000000000⟩ ] ++
  [ ⟨"W_EXPAND", 0x2200000000000000, 0xffffffffffffffff⟩,
    ⟨"C_START", 0x3000000000000000, 0xffffffffffffffff⟩,
    ⟨"C_ROUND", 0x3100000000000000, 0xffffffffffffffff⟩,
    ⟨"C_FINISH", 0x3200000000000000, 0xffffffffffffffff⟩,
    ⟨"COMPRESS", 0x3300000000000000, 0xffffffffffffffff⟩,
    ⟨"BLOCK", 0x4000000000000000, 0xffffffff00000000⟩,
    ⟨"HASH", 0x4100000000000000, 0xffffffffffffffff⟩ ]

/-- The command's mnemonic, as the table spells it. -/
def Instr.mnemonic : Instr → String
  | .msgClear => "MSG_CLEAR"
  | .msgAppend _ => "MSG_APPEND"
  | .pad => "PAD"
  | .hInit => "H_INIT"
  | .hWrite _ _ => "H_WRITE"
  | .wLoad _ => "W_LOAD"
  | .wWrite _ _ => "W_WRITE"
  | .wExpand => "W_EXPAND"
  | .cStart => "C_START"
  | .cRound => "C_ROUND"
  | .cFinish => "C_FINISH"
  | .compress => "COMPRESS"
  | .block _ => "BLOCK"
  | .hash => "HASH"

/-- The command the decoder reads from a word numbered as the opcode table numbers it (bit 0 is `cmd[0]`); a command is one
64-bit word on parallel signals (R45), so there are no further words to lay out, and the bits above `nbits` are 0. -/
def decodeTableWord (nbits w : Nat) : Option Instr :=
  match decode (BitVec.ofNat 64 (w % 2 ^ nbits)) with
  | .ok i => some i
  | .error _ => none

end Sys2Proof
end

