-- ==== Sys2Proof/Machine/Functions.lean ====
section
/-! DEFINITION. The word functions: shifts and rotation (00_scope.md R10, R11), big-endian packing (R12), the small sigmas of
the scheduler (41_scheduler.md R100, R101) and the big sigmas, Ch and Maj of the compressor (42_compressor.md R120 to R123). -/

namespace Sys2Proof.Machine

/-- Logical right shift (R10). -/
def shr (x : Word) (n : Nat) : Word := x >>> n

/-- Left shift, `(x * 2^n) mod 2^32` (R10). -/
def shl (x : Word) (n : Nat) : Word := x <<< n

/-- Right rotation, for `0 < n < 32` (R11). -/
def rotr (x : Word) (n : Nat) : Word := shr x n ||| shl x (32 - n)

/-- `BE32(b0, b1, b2, b3)`: the first byte is the most significant (R12). -/
def be32 (b0 b1 b2 b3 : Byte) : Word := b0 ++ b1 ++ b2 ++ b3

/-- `bytesBE32(x)`: `x[31:24], x[23:16], x[15:8], x[7:0]` (R12). -/
def bytesBE32 (x : Word) : List Byte :=
  [x.extractLsb' 24 8, x.extractLsb' 16 8, x.extractLsb' 8 8, x.extractLsb' 0 8]

/-- `bytesBE64(y)`: the eight bytes of y, most significant first (R12). -/
def bytesBE64 (y : BitVec 64) : List Byte :=
  [y.extractLsb' 56 8, y.extractLsb' 48 8, y.extractLsb' 40 8, y.extractLsb' 32 8,
   y.extractLsb' 24 8, y.extractLsb' 16 8, y.extractLsb' 8 8, y.extractLsb' 0 8]

/-- σ0 (R100). -/
def smallSigma0 (x : Word) : Word := rotr x 7 ^^^ rotr x 18 ^^^ shr x 3

/-- σ1 (R101). -/
def smallSigma1 (x : Word) : Word := rotr x 17 ^^^ rotr x 19 ^^^ shr x 10

/-- Σ0 (R120). -/
def bigSigma0 (x : Word) : Word := rotr x 2 ^^^ rotr x 13 ^^^ rotr x 22

/-- Σ1 (R121). -/
def bigSigma1 (x : Word) : Word := rotr x 6 ^^^ rotr x 11 ^^^ rotr x 25

/-- Ch, choose (R122). -/
def ch (x y z : Word) : Word := (x &&& y) ^^^ (~~~x &&& z)

/-- Maj, majority (R123). -/
def maj (x y z : Word) : Word := (x &&& y) ^^^ (x &&& z) ^^^ (y &&& z)

end Sys2Proof.Machine
end

