-- ==== Sys2Proof/Config.lean ====
section
/-! DEFINITION. What an implementation fixes. 00_scope.md R7: MAX_MSG_BYTES is the only implementation parameter, and it is
left open. It is a field of a Config, which State carries and no step changes, so that a statement about every
state is a statement about every capacity (notes/assumptions/2.md). -/

namespace Sys2Proof

/-- The implementation's parameters (R7): `0 <= MAX_MSG_BYTES <= 2^64 - 1`, in bytes. -/
structure Config where
  maxMsgBytes : Fin (2 ^ 64)
  deriving DecidableEq, Repr

/-- The implementation that `State.reset` stands for. DESIGN CHOICE (notes/assumptions/2.md, unsafe): the largest capacity
for which the length field never wraps, as D8 recommends; the spec leaves the parameter open. -/
def Config.modelled : Config := { maxMsgBytes := ⟨2 ^ 61 - 1, by decide⟩ }

end Sys2Proof
end

