-- ==== Sys2Proof/Machine/State.lean ====
section
/-! DEFINITION. The state of the block, as plain data: every item of 10_state.md R20, and beside them the model's own fields
(the implementation parameter, what the host will do, and what it has been answered). -/

namespace Sys2Proof.Machine

/-- The error codes of 60_exceptions.md R161, by name; the codes 10 to 15 never occur and have no name. -/
inductive ErrorCode where
  /-- Code 0: no error recorded since reset. -/
  | none
  /-- Code 1: the opcode is not assigned. -/
  | illegalOpcode
  /-- Code 2: a must-be-zero field is nonzero. -/
  | reservedField
  /-- Code 3: a register index out of range. -/
  | badIndex
  /-- Code 4: a compression is open. -/
  | busy
  /-- Code 5: no compression is open. -/
  | notActive
  /-- Code 6: C_ROUND after round 63, or C_FINISH before it. -/
  | roundOrder
  /-- Code 7: the padded view is not armed. -/
  | noPad
  /-- Code 8: no such block in the padded view. -/
  | blockRange
  /-- Code 9: the message buffer is full. -/
  | msgFull
  deriving DecidableEq, Repr

/-- The HashState H or the working registers V: eight words (10_state.md R21, R23). -/
abbrev Registers := Vector Word 8

/-- The MessageSchedule W: 64 words (10_state.md R22). -/
abbrev Schedule := Vector Word 64

/-- The message buffer (10_state.md R25, 20_memory.md R41): the cell at place n is (n, byte n of MSG). Its canonical
form is `Memory.wf` (Ops.lean); an unlisted address holds no byte (notes/assumptions/6.md). -/
abbrev Memory := List Host.Cell

/-- What the host can do to the block between two commands (70_reset_and_hazards.md R189). -/
inductive HostEvent where
  /-- Issue one command word. -/
  | command (cmd : CommandWord)
  /-- Read the read port at an address. -/
  | read (raddr : BitVec 8)
  /-- Sample the digest output. -/
  | sample
  /-- Assert `rst`. -/
  | reset
  deriving DecidableEq, Repr

/-- What the block gives back for a read or a sample (R189). -/
inductive Reply where
  /-- `rdata` of a read. -/
  | word (rdata : Word)
  /-- `digest[255:0]` of a sample. -/
  | digest (d : BitVec 256)
  deriving DecidableEq, Repr

/-- The complete architectural state (10_state.md R20), then three fields of the model's own. -/
structure State where
  /-- H[0..7], the HashState (R21). -/
  h : Registers
  /-- W[0..63], the MessageSchedule (R22). -/
  w : Schedule
  /-- V[0..7], the working registers (R23). -/
  v : Registers
  /-- ACT: a compression is open (R24). -/
  act : Bool
  /-- RND: rounds done in the open compression, 0..64 (R24). -/
  rnd : Fin 65
  /-- MSG, the message buffer (R25). -/
  msg : Memory
  /-- PADV: the padded view is armed (R26). -/
  padv : Bool
  /-- ERR: an error has been recorded since reset (R29). -/
  err : Bool
  /-- ECODE: the code of the first error (R29). -/
  ecode : ErrorCode
  /-- EOP: the opcode of the first failing command (R29). -/
  eop : BitVec 8
  /-- The model's own: the implementation's parameters (R7, notes/assumptions/2.md). -/
  config : Config
  /-- The model's own: what the host will do, oldest first (notes/assumptions/1.md). -/
  inputs : List HostEvent
  /-- The model's own: what reads and samples have answered, oldest first (notes/assumptions/1.md). -/
  replies : List Reply
  deriving DecidableEq, Repr

/-- Fault outcomes: there are none. Every command completes (60_exceptions.md R160, 70_reset_and_hazards.md R188); an
error is a next state with the error record set (R163, R164), never the end of the run (notes/assumptions/3.md). -/
inductive Fault
  deriving DecidableEq, Repr

/-- Refusals. -/
inductive Refusal where
  /-- Raised by no arm of this model: every command has its meaning. An arm would raise it for a command not modelled
  yet; safe, since it stops the run. -/
  | notModelled (mnemonic : String)
  deriving DecidableEq, Repr

/-- What one step or one command answers. -/
abbrev Outcome := Host.Outcome State Fault Refusal

/-- The reset state of 10_state.md R33, for an implementation with the parameters `c`; no input is pending and nothing
has been answered (DESIGN CHOICE for these two fields of the model's own, notes/assumptions/1.md). -/
def State.resetOf (c : Config) : State where
  h := IV
  w := Vector.replicate 64 0
  v := Vector.replicate 8 0
  act := false
  rnd := 0
  msg := []
  padv := false
  err := false
  ecode := .none
  eop := 0
  config := c
  inputs := []
  replies := []

/-- The machine right after reset (R33, R180). Every register's value is the spec's; the capacity is a DESIGN CHOICE
(notes/assumptions/2.md). -/
def State.reset : State := State.resetOf Config.modelled

end Sys2Proof.Machine
end

