-- ==== Sys2Proof/Machine/Ops.lean ====
section
/-! DEFINITION. The named operations over the message buffer, the register files and the error record. `raise` is the one
operation by which a command fails (60_exceptions.md R163); `attempt` is the one shape of every command: its checks in order,
then its effect; `applyReset` is the only way an error record is cleared (R168). -/

namespace Sys2Proof.Machine

/-! The message buffer (10_state.md R25, 20_memory.md R41). -/

/-- The canonical form: the addresses are 0, 1, ..., L - 1 in this order. -/
abbrev Memory.wf (m : Memory) : Prop := m.map Prod.fst = List.range m.length

/-- The byte at an address, none where the buffer holds none. -/
def Memory.byteAt (m : Memory) (a : Nat) : Option Byte := m[a]?.map Prod.snd

/-- `MsgByte(n)`, for `n < L` (R41): the (n+1)-th byte appended. -/
def msgByte (m : Memory) (n : Nat) (h : n < m.length) : Byte := m[n].2

/-- `MSG ‖ [b]` (40_padder.md R85). -/
def Memory.append (m : Memory) (b : Byte) : Memory := m ++ [(m.length, b)]

/-- The bytes of the message in order, `MSG[0..L-1]`. -/
def Memory.bytes (m : Memory) : List Byte := m.map Prod.snd

/-- `L = |MSG|` (R25). -/
def State.len (s : State) : Nat := s.msg.length

/-- `MAX_MSG_BYTES` (00_scope.md R7). -/
def State.capacity (s : State) : Nat := s.config.maxMsgBytes.val

/-- The number of blocks of the padded view of L bytes, `floor((L + 72) / 64)` (20_memory.md R42). -/
def blockCount (len : Nat) : Nat := (len + 72) / 64

/-- `PL = 64 * NB` (R42). -/
def paddedLength (len : Nat) : Nat := 64 * blockCount len

/-- NB: the number of blocks, and 0 when the padded view is not armed (R42). -/
def State.nb (s : State) : Nat := if s.padv then blockCount s.len else 0

/-- MSG_CLEAR's effect (40_padder.md R84). -/
def State.clearMessage (s : State) : State := { s with msg := [], padv := false }

/-- MSG_APPEND's effect (40_padder.md R85). -/
def State.appendByte (b : Byte) (s : State) : State := { s with msg := s.msg.append b, padv := false }

/-- PAD's effect (40_padder.md R86). -/
def State.armPadding (s : State) : State := { s with padv := true }

/-! The register files. -/

/-- `H[i] <- v`, for `i <= 7`; a command checks the index first (R130, notes/assumptions/11.md). -/
def State.writeH (i : Nat) (v : Word) (s : State) : State := { s with h := s.h.setIfInBounds i v }

/-- `W[t] <- v`, for `t <= 63`; a command checks the index first (R105, notes/assumptions/11.md). -/
def State.writeW (t : Nat) (v : Word) (s : State) : State := { s with w := s.w.setIfInBounds t v }

/-- `for i in lo..lo+n-1: W[i] <- f W i`, in increasing i, each step reading the words already written
(41_scheduler.md R104, R106). -/
def setWords (f : Schedule → Fin 64 → Word) (lo : Nat) : (n : Nat) → lo + n ≤ 64 → Schedule → Schedule
  | 0, _, w => w
  | n + 1, h, w =>
    let w' := setWords f lo n (by omega) w
    w'.set (lo + n) (f w' ⟨lo + n, by omega⟩) (by omega)

/-- `H[i] + V[i] (mod 2^32)` for i in 0..7 (42_compressor.md R133). -/
def addRegisters (h v : Registers) : Registers :=
  #v[h[0] + v[0], h[1] + v[1], h[2] + v[2], h[3] + v[3], h[4] + v[4], h[5] + v[5], h[6] + v[6], h[7] + v[7]]

/-! Errors (60_exceptions.md). -/

/-- `raise Error(code)` in the command with opcode field `op` (R163): the first error since reset is recorded, a later one
changes nothing (10_state.md R29). -/
def State.raise (code : ErrorCode) (op : BitVec 8) (s : State) : State :=
  if s.err then s else { s with err := true, ecode := code, eop := op }

/-- The first check of a list that fails (R165); a check is a condition with the error it raises. -/
def firstError : List (Bool × ErrorCode) → Option ErrorCode
  | [] => none
  | (fails, code) :: rest => if fails then some code else firstError rest

/-- A command with opcode `op`: the checks in the order of R165, all of them before anything is written (R163), then the
effect. -/
def attempt (op : BitVec 8) (checks : List (Bool × ErrorCode)) (effect : State → State) (s : State) : Outcome :=
  .next (match firstError checks with
    | some code => s.raise code op
    | none => effect s)

/-- The error of a rejected word (30_encoding.md R62, R64). -/
def rejectionCode : Rejection → ErrorCode
  | .illegalOpcode => .illegalOpcode
  | .reservedField => .reservedField

/-- `rst` (70_reset_and_hazards.md R180): every piece of state takes its reset value. The implementation's parameters, the
host's remaining inputs and the replies already given are no state of the block and stay. -/
def State.applyReset (s : State) : State :=
  { State.resetOf s.config with inputs := s.inputs, replies := s.replies }

end Sys2Proof.Machine
end

