-- ==== Sys2Proof/Machine/Operands.lean ====
section
/-! DEFINITION. The operand forms (30_encoding.md R61) and the checks on them: a register index (H_WRITE, W_WRITE), a block
index (W_LOAD, BLOCK); a byte, a word and no operand need none. Nothing is sign-extended, scaled or shifted. -/

namespace Sys2Proof.Machine

/-- BAD_INDEX of H_WRITE: `i > 7` (42_compressor.md R130). -/
def hIndexBad (i : BitVec 24) : Bool := decide (7 < i.toNat)

/-- BAD_INDEX of W_WRITE: `t > 63` (41_scheduler.md R105). -/
def wIndexBad (t : BitVec 24) : Bool := decide (63 < t.toNat)

/-- BLOCK_RANGE: `j >= NB` (41_scheduler.md R104, 43_composite.md R150). -/
def blockIndexBad (j : BitVec 32) (s : State) : Bool := decide (s.nb ≤ j.toNat)

end Sys2Proof.Machine
end

