-- ==== Sys2Proof/Machine/Flags.lean ====
section
/-! DEFINITION. The status fields and every condition a command checks on them: the STATUS word (10_state.md R28), the error
codes as numbers (60_exceptions.md R161), the `err` output (R166) and the state checks of R165. The block has no arithmetic
flags (10_state.md R30). -/

namespace Sys2Proof.Machine

/-- The code recorded in ECODE (R161). -/
def ErrorCode.bits : ErrorCode → BitVec 4
  | .none => 0
  | .illegalOpcode => 1
  | .reservedField => 2
  | .badIndex => 3
  | .busy => 4
  | .notActive => 5
  | .roundOrder => 6
  | .noPad => 7
  | .blockRange => 8
  | .msgFull => 9

/-- A one-bit flag as a word. -/
def flagWord (b : Bool) : Word := if b then 1 else 0

/-- `STATUS = ERR | ACT << 1 | PADV << 2 | ECODE << 8 | RND << 16 | EOP << 24` (R28). -/
def State.status (s : State) : Word :=
  flagWord s.err ||| shl (flagWord s.act) 1 ||| shl (flagWord s.padv) 2 ||| shl (s.ecode.bits.setWidth 32) 8
    ||| shl (BitVec.ofNat 32 s.rnd.val) 16 ||| shl (s.eop.setWidth 32) 24

/-- The `err` output: ERR, as a level (60_exceptions.md R166). -/
def State.errOutput (s : State) : Bool := s.err

/-- BUSY: a compression is open. -/
def State.checkIdle (s : State) : Bool × ErrorCode := (s.act, .busy)

/-- NOT_ACTIVE: no compression is open. -/
def State.checkOpen (s : State) : Bool × ErrorCode := (!s.act, .notActive)

/-- ROUND_ORDER of C_ROUND: all 64 rounds are done. -/
def State.checkRoundLeft (s : State) : Bool × ErrorCode := (decide (s.rnd.val = 64), .roundOrder)

/-- ROUND_ORDER of C_FINISH: fewer than 64 rounds are done. -/
def State.checkRoundsDone (s : State) : Bool × ErrorCode := (decide (s.rnd.val ≠ 64), .roundOrder)

/-- NO_PAD: the padded view is not armed. -/
def State.checkPadded (s : State) : Bool × ErrorCode := (!s.padv, .noPad)

/-- BLOCK_RANGE. -/
def State.checkBlock (j : BitVec 32) (s : State) : Bool × ErrorCode := (blockIndexBad j s, .blockRange)

/-- MSG_FULL: `L = MAX_MSG_BYTES` (40_padder.md R85). -/
def State.checkRoom (s : State) : Bool × ErrorCode := (decide (s.len = s.capacity), .msgFull)

end Sys2Proof.Machine
end

