-- ==== Sys2Proof/Machine/Padder.lean ====
section
/-! DEFINITION. The Padder (40_padder.md): the padded view PadByte of the message buffer, and MSG_CLEAR, MSG_APPEND and PAD. -/

namespace Sys2Proof.Machine

/-- The length field `LEN64 = (8 * L) mod 2^64` (R82). -/
def lengthField (len : Nat) : Nat := (8 * len) % 2 ^ 64

/-- `PadByte(n)` (R83), for `n < PL`; no command reads it elsewhere (notes/assumptions/11.md). -/
def padByte (m : Memory) (n : Nat) : Byte :=
  if h : n < m.length then msgByte m n h
  else if n = m.length then 0x80
  else if n < paddedLength m.length - 8 then 0x00
  else BitVec.ofNat 8 (lengthField m.length >>> (8 * (paddedLength m.length - 1 - n)) &&& 0xFF)

/-- MSG_CLEAR (R84). -/
def execMsgClear (s : State) : Outcome := attempt Instr.msgClear.opcode [] State.clearMessage s

/-- MSG_APPEND b (R85). -/
def execMsgAppend (b : Byte) (s : State) : Outcome :=
  attempt (Instr.msgAppend b).opcode [s.checkRoom] (State.appendByte b) s

/-- PAD (R86). -/
def execPad (s : State) : Outcome := attempt Instr.pad.opcode [] State.armPadding s

end Sys2Proof.Machine
end

