-- ==== Sys2Proof/Machine/Scheduler.lean ====
section
/-! DEFINITION. The MessageScheduler (41_scheduler.md): W_LOAD, W_WRITE and W_EXPAND. -/

namespace Sys2Proof.Machine

/-- `BlockWord(j, t)`, the schedule word t of padded block j, big-endian (R102). -/
def blockWord (m : Memory) (j t : Nat) : Word :=
  be32 (padByte m (64 * j + 4 * t)) (padByte m (64 * j + 4 * t + 1)) (padByte m (64 * j + 4 * t + 2))
    (padByte m (64 * j + 4 * t + 3))

/-- `ExpandStep(i)`, for i in 16..63 (R103). -/
def expandStep (w : Schedule) (i : Fin 64) : Word :=
  smallSigma1 w[i.val - 2] + w[i.val - 7] + smallSigma0 w[i.val - 15] + w[i.val - 16]

/-- `for t in 0..15: W[t] <- BlockWord(j, t)` (R104). -/
def loadWords (m : Memory) (j : Nat) (w : Schedule) : Schedule :=
  setWords (fun _ t => blockWord m j t.val) 0 16 (by decide) w

/-- `for i in 16..63: W[i] <- ExpandStep(i)` (R106). -/
def expandWords (w : Schedule) : Schedule := setWords expandStep 16 48 (by decide) w

/-- Words 0..15 of the schedule become padded block j. -/
def State.loadBlock (j : Nat) (s : State) : State := { s with w := loadWords s.msg j s.w }

/-- Words 16..63 of the schedule are computed from words 0..15. -/
def State.expandSchedule (s : State) : State := { s with w := expandWords s.w }

/-- W_LOAD j (R104). -/
def execWLoad (j : BitVec 32) (s : State) : Outcome :=
  attempt (Instr.wLoad j).opcode [s.checkIdle, s.checkPadded, s.checkBlock j] (State.loadBlock j.toNat) s

/-- W_WRITE t, v (R105). -/
def execWWrite (t : BitVec 24) (v : Word) (s : State) : Outcome :=
  attempt (Instr.wWrite t v).opcode [(wIndexBad t, .badIndex), s.checkIdle] (State.writeW t.toNat v) s

/-- W_EXPAND (R106). -/
def execWExpand (s : State) : Outcome := attempt Instr.wExpand.opcode [s.checkIdle] State.expandSchedule s

end Sys2Proof.Machine
end

