-- ==== Sys2Proof/Machine/Compressor.lean ====
section
/-! DEFINITION. The Compressor and the HashState (42_compressor.md): H_INIT, H_WRITE, C_START, C_ROUND, C_FINISH and COMPRESS. -/

namespace Sys2Proof.Machine

/-- T1 of round r (R126). -/
def temp1 (w : Schedule) (v : Registers) (r : Fin 64) : Word :=
  v[7] + bigSigma1 v[4] + ch v[4] v[5] v[6] + K r + w[r.val]

/-- T2 (R127). -/
def temp2 (v : Registers) : Word := bigSigma0 v[0] + maj v[0] v[1] v[2]

/-- `Round(r)`: all eight registers at once, from the old values (R128). -/
def compressionRound (w : Schedule) (v : Registers) (r : Fin 64) : Registers :=
  #v[temp1 w v r + temp2 v, v[0], v[1], v[2], v[3] + temp1 w v r, v[4], v[5], v[6]]

/-- Rounds 0..n-1, in increasing order. -/
def rounds (w : Schedule) (v : Registers) : (n : Nat) → n ≤ 64 → Registers
  | 0, _ => v
  | n + 1, h => compressionRound w (rounds w v n (by omega)) ⟨n, by omega⟩

/-- `H <- IV` (R129). -/
def State.loadIV (s : State) : State := { s with h := IV }

/-- C_START's effect (R131). -/
def State.openCompression (s : State) : State := { s with v := s.h, act := true, rnd := 0 }

/-- C_ROUND's effect, for `RND < 64` (R132); the command checks RND first (notes/assumptions/11.md). -/
def State.runRound (s : State) : State :=
  if h : s.rnd.val < 64 then { s with v := compressionRound s.w s.v ⟨s.rnd.val, h⟩, rnd := ⟨s.rnd.val + 1, by omega⟩ } else s

/-- C_FINISH's effect (R133). -/
def State.finishCompression (s : State) : State :=
  { s with h := addRegisters s.h s.v, act := false, rnd := 0 }

/-- COMPRESS's effect (R135): V from H, the 64 rounds, then the final addition. -/
def State.compressWhole (s : State) : State :=
  { s with v := rounds s.w s.h 64 (by decide), h := addRegisters s.h (rounds s.w s.h 64 (by decide)) }

/-- H_INIT (R129). -/
def execHInit (s : State) : Outcome := attempt Instr.hInit.opcode [s.checkIdle] State.loadIV s

/-- H_WRITE i, v (R130). -/
def execHWrite (i : BitVec 24) (v : Word) (s : State) : Outcome :=
  attempt (Instr.hWrite i v).opcode [(hIndexBad i, .badIndex), s.checkIdle] (State.writeH i.toNat v) s

/-- C_START (R131). -/
def execCStart (s : State) : Outcome := attempt Instr.cStart.opcode [s.checkIdle] State.openCompression s

/-- C_ROUND (R132). -/
def execCRound (s : State) : Outcome :=
  attempt Instr.cRound.opcode [s.checkOpen, s.checkRoundLeft] State.runRound s

/-- C_FINISH (R133). -/
def execCFinish (s : State) : Outcome :=
  attempt Instr.cFinish.opcode [s.checkOpen, s.checkRoundsDone] State.finishCompression s

/-- COMPRESS (R135). -/
def execCompress (s : State) : Outcome := attempt Instr.compress.opcode [s.checkIdle] State.compressWhole s

end Sys2Proof.Machine
end

