-- ==== Sys2Proof/Machine/Driver.lean ====
section
/-! DEFINITION. Block and whole-message sequencing (43_composite.md): BLOCK and HASH. -/

namespace Sys2Proof.Machine

/-- The body of BLOCK j after its checks (R150): load, expand, compress. -/
def State.processBlock (j : Nat) (s : State) : State := (s.loadBlock j).expandSchedule.compressWhole

/-- Blocks 0..n-1, in increasing order (R151). -/
def State.processBlocks : Nat → State → State
  | 0, s => s
  | n + 1, s => (s.processBlocks n).processBlock n

/-- The body of HASH after its checks (R151): H from IV, then every block of the padded view. -/
def State.hashMessage (s : State) : State := s.loadIV.processBlocks s.nb

/-- BLOCK j (R150). -/
def execBlock (j : BitVec 32) (s : State) : Outcome :=
  attempt (Instr.block j).opcode [s.checkIdle, s.checkPadded, s.checkBlock j] (State.processBlock j.toNat) s

/-- HASH (R151). -/
def execHash (s : State) : Outcome := attempt Instr.hash.opcode [s.checkIdle, s.checkPadded] State.hashMessage s

end Sys2Proof.Machine
end

