-- ==== Sys2Proof/Machine/Dispatch.lean ====
section
/-! DEFINITION. The meaning of each command: one arm for each row of spec/opcode_table.json. -/

namespace Sys2Proof.Machine

def exec (i : Instr) (s : State) : Host.Outcome State Fault Refusal :=
  match i with
  | .msgClear => Sys2Proof.Machine.execMsgClear s
  | .msgAppend b => Sys2Proof.Machine.execMsgAppend b s
  | .pad => Sys2Proof.Machine.execPad s
  | .hInit => Sys2Proof.Machine.execHInit s
  | .hWrite k v => Sys2Proof.Machine.execHWrite k v s
  | .wLoad j => Sys2Proof.Machine.execWLoad j s
  | .wWrite t v => Sys2Proof.Machine.execWWrite t v s
  | .wExpand => Sys2Proof.Machine.execWExpand s
  | .cStart => Sys2Proof.Machine.execCStart s
  | .cRound => Sys2Proof.Machine.execCRound s
  | .cFinish => Sys2Proof.Machine.execCFinish s
  | .compress => Sys2Proof.Machine.execCompress s
  | .block j => Sys2Proof.Machine.execBlock j s
  | .hash => Sys2Proof.Machine.execHash s

end Sys2Proof.Machine
end

