-- ==== Sys2Proof/Machine/Ports.lean ====
section
/-! DEFINITION. The ports of the block (70_reset_and_hazards.md R189): the command port, the read port (20_memory.md R49, R50),
the digest output (10_state.md R27) and the `rst` input. -/

namespace Sys2Proof.Machine

/-- The word at read-port address `a` (20_memory.md R49); a reserved address reads 0 (R50). -/
def State.portWord (s : State) (a : Nat) : Word :=
  if _ : a < 0x08 then s.h[a]'(by omega)
  else if _ : a < 0x10 then s.v[a - 0x08]'(by omega)
  else if a = 0x10 then s.status
  else if a = 0x11 then BitVec.ofNat 32 s.len
  else if a = 0x12 then BitVec.ofNat 32 (s.len / 2 ^ 32)
  else if a = 0x13 then BitVec.ofNat 32 s.nb
  else if a = 0x14 then BitVec.ofNat 32 (s.nb / 2 ^ 32)
  else if a < 0x40 then 0
  else if _ : a < 0x80 then s.w[a - 0x40]'(by omega)
  else if _ : a < 0xC0 then K ⟨a - 0x80, by omega⟩
  else if _ : a < 0xC8 then IV[a - 0xC0]'(by omega)
  else 0

/-- `rdata` for the 8-bit word address `raddr`, computed from the current state (R49). -/
def State.readPort (s : State) (raddr : BitVec 8) : Word := s.portWord raddr.toNat

/-- `digest[255:0]`, with `digest[255 - 32i : 224 - 32i] = H[i]` (10_state.md R27). -/
def State.digest (s : State) : BitVec 256 :=
  s.h[0] ++ s.h[1] ++ s.h[2] ++ s.h[3] ++ s.h[4] ++ s.h[5] ++ s.h[6] ++ s.h[7]

/-- The 32-byte Digest `bytesBE32(H[0]) ‖ ... ‖ bytesBE32(H[7])` (R27). -/
def State.digestBytes (s : State) : List Byte := s.h.toList.flatMap bytesBE32

/-- Issue one command word (30_encoding.md R65): the command it spells, or its error with the word's opcode field. -/
def issue (cmd : CommandWord) (s : State) : Outcome :=
  match decode cmd with
  | .ok i => exec i s
  | .error r => .next (s.raise (rejectionCode r) (opField cmd))

/-- Read the read port: the answer is put on record and nothing else changes (20_memory.md R48). -/
def State.answerRead (raddr : BitVec 8) (s : State) : State :=
  { s with replies := s.replies ++ [.word (s.readPort raddr)] }

/-- Sample the digest output: the answer is put on record and nothing else changes (10_state.md R27). -/
def State.answerSample (s : State) : State :=
  { s with replies := s.replies ++ [.digest s.digest] }

/-- What the block does for one act of the host (R189). -/
def serve : HostEvent → State → Outcome
  | .command cmd, s => issue cmd s
  | .read raddr, s => .next (s.answerRead raddr)
  | .sample, s => .next s.answerSample
  | .reset, s => .next s.applyReset

/-- The block starts nothing by itself and waits for the host (70_reset_and_hazards.md R180, notes/assumptions/4.md). -/
def waitForHost (s : State) : Outcome := .next s

end Sys2Proof.Machine
end

