-- ==== Sys2Proof/Machine/Step.lean ====
section
/-! DEFINITION. One step: the oldest act of the host, taken whole (20_memory.md R47, R52). -/

namespace Sys2Proof.Machine

/-- One step of the machine: the next input of the host is served; with none pending the block waits. -/
def step (s : State) : Host.Outcome State Fault Refusal :=
  match s.inputs with
  | [] => waitForHost s
  | e :: rest => serve e { s with inputs := rest }

/-- The state with a command word placed where the next step takes its input from: at the head of what the host will do
(notes/assumptions/1.md says how a program comes to run). -/
def State.withFetchWord (s : State) (nbits w : Nat) : State :=
  { s with inputs := .command (BitVec.ofNat 64 (w % 2 ^ nbits)) :: s.inputs }

end Sys2Proof.Machine
end

