-- ==== Sys2Proof/Machine/Assembler.lean ====
section
/-! DEFINITION. The assembly syntax (30_encoding.md R66) and the pseudo-commands (R67): text to the commands that reach the block.
What the two rules leave open of the text's form (blanks, letter case, a semicolon inside a string) is in
notes/assumptions/12.md. -/

namespace Sys2Proof.Machine.Assembler

/-- `MSG_BYTES b0, ..., bn` (R67). -/
def msgBytes (bs : List Byte) : List Instr := bs.map .msgAppend

/-- `LOAD_STATE h0, ..., h7`, or `LOAD_SCHED w0, ..., w15` (R67): one write for each word, from index `k` on. -/
def writesFrom (write : BitVec 24 → Word → Instr) (k : Nat) : List Word → List Instr
  | [] => []
  | x :: rest => write (BitVec.ofNat 24 k) x :: writesFrom write (k + 1) rest

/-- `ROUNDS n` (R67). -/
def rounds (n : Nat) : List Instr := List.replicate n .cRound

/-- `HASH_MSG "s"` (R67), for the bytes of the string. -/
def hashMsg (bs : List Byte) : List Instr := .msgClear :: msgBytes bs ++ [.pad, .hash]

/-! Text. -/

def isBlank (c : Char) : Bool := c == ' ' || c == '\t'

/-- The line up to its comment: a semicolon outside a string starts one. -/
def stripComment (inString : Bool) : List Char → List Char
  | [] => []
  | c :: rest =>
    if c == ';' && !inString then [] else c :: stripComment (if c == '"' then !inString else inString) rest

def trim (cs : List Char) : List Char := ((cs.dropWhile isBlank).reverse.dropWhile isBlank).reverse

/-- The parts of an operand list, between commas. -/
def splitCommas : List Char → List (List Char)
  | [] => [[]]
  | c :: rest =>
    if c == ',' then [] :: splitCommas rest
    else match splitCommas rest with
      | [] => [[c]]
      | part :: parts => (c :: part) :: parts

/-- The value of a digit, hexadecimal digits in either case. -/
def digit (c : Char) : Option Nat :=
  let n := c.toNat
  if 48 ≤ n ∧ n ≤ 57 then some (n - 48)
  else if 97 ≤ n ∧ n ≤ 102 then some (n - 87)
  else if 65 ≤ n ∧ n ≤ 70 then some (n - 55)
  else none

/-- The number a digit string spells in a base, after the digits already read. -/
def digits (base acc : Nat) : List Char → Option Nat
  | [] => some acc
  | c :: rest =>
    match digit c with
    | some d => if d < base then digits base (acc * base + d) rest else none
    | none => none

/-- A decimal or `0x` hexadecimal number (R66). -/
def number : List Char → Option Nat
  | [] => none
  | ['0', 'x'] => none
  | '0' :: 'x' :: ds => digits 16 0 ds
  | ds => digits 10 0 ds

/-- The operands of a command: none, or numbers between commas (R66). -/
def operands (cs : List Char) : Option (List Nat) :=
  match trim cs with
  | [] => some []
  | text => (splitCommas text).mapM fun part => number (trim part)

/-- The bytes of a quoted ASCII string (R67). -/
def quoted (cs : List Char) : Option (List Byte) :=
  match trim cs with
  | '"' :: rest =>
    match rest.reverse with
    | '"' :: body =>
      if body.all fun c => c.toNat < 128 && c != '"' then
        some (body.reverse.map fun c => BitVec.ofNat 8 c.toNat)
      else none
    | _ => none
  | _ => none

/-- An operand below a bound, or a refusal (R66). -/
def below (bound n : Nat) (i : Instr) : Option Instr := if n < bound then some i else none

/-- One command (R66): its mnemonic and its operands, each in its range. -/
def command (mnemonic : String) (args : List Nat) : Option Instr :=
  match mnemonic, args with
  | "MSG_CLEAR", [] => some .msgClear
  | "MSG_APPEND", [b] => below (2 ^ 8) b (.msgAppend (BitVec.ofNat 8 b))
  | "PAD", [] => some .pad
  | "H_INIT", [] => some .hInit
  | "H_WRITE", [i, v] => if i < 8 then below (2 ^ 32) v (.hWrite (BitVec.ofNat 24 i) (BitVec.ofNat 32 v)) else none
  | "W_LOAD", [j] => below (2 ^ 32) j (.wLoad (BitVec.ofNat 32 j))
  | "W_WRITE", [t, v] => if t < 64 then below (2 ^ 32) v (.wWrite (BitVec.ofNat 24 t) (BitVec.ofNat 32 v)) else none
  | "W_EXPAND", [] => some .wExpand
  | "C_START", [] => some .cStart
  | "C_ROUND", [] => some .cRound
  | "C_FINISH", [] => some .cFinish
  | "COMPRESS", [] => some .compress
  | "BLOCK", [j] => below (2 ^ 32) j (.block (BitVec.ofNat 32 j))
  | "HASH", [] => some .hash
  | _, _ => none

/-- The operands of a command as its assembly line writes them (R66). -/
def writtenOperands : Instr → List Nat
  | .msgAppend b => [b.toNat]
  | .hWrite i v => [i.toNat, v.toNat]
  | .wLoad j => [j.toNat]
  | .wWrite t v => [t.toNat, v.toNat]
  | .block j => [j.toNat]
  | .msgClear => []
  | .pad => []
  | .hInit => []
  | .wExpand => []
  | .cStart => []
  | .cRound => []
  | .cFinish => []
  | .compress => []
  | .hash => []

/-- Numbers below a bound, as values of that many bits, or a refusal. -/
def values (bits : Nat) (args : List Nat) : Option (List (BitVec bits)) :=
  if args.all fun n => n < 2 ^ bits then some (args.map (BitVec.ofNat bits)) else none

/-- A pseudo-command with number operands (R67). -/
def pseudo (mnemonic : String) (args : List Nat) : Option (List Instr) :=
  match mnemonic with
  | "MSG_BYTES" => if args.isEmpty then none else (values 8 args).map msgBytes
  | "LOAD_STATE" => if args.length = 8 then (values 32 args).map (writesFrom .hWrite 0) else none
  | "LOAD_SCHED" => if args.length = 16 then (values 32 args).map (writesFrom .wWrite 0) else none
  | "ROUNDS" =>
    match args with
    | [n] => if 1 ≤ n ∧ n ≤ 64 then some (rounds n) else none
    | _ => none
  | _ => none

/-- One line of assembly: nothing, a command, or a pseudo-command's exact expansion (R66, R67). -/
def line (text : List Char) : Option (List Instr) :=
  let body := trim (stripComment false text)
  let mnemonic := String.ofList (body.takeWhile fun c => !isBlank c)
  let rest := body.dropWhile fun c => !isBlank c
  if body.isEmpty then some []
  else if mnemonic = "MSG_STRING" then (quoted rest).map msgBytes
  else if mnemonic = "HASH_MSG" then (quoted rest).map hashMsg
  else
    match operands rest with
    | none => none
    | some args =>
      match command mnemonic args with
      | some i => some [i]
      | none => pseudo mnemonic args

/-- A program: its lines in order. -/
def program (lines : List String) : Option (List Instr) :=
  (lines.mapM fun l => line l.toList).map List.flatten

end Sys2Proof.Machine.Assembler
end

