-- ==== Sys2Proof/Machine/Reference.lean ====
section
/-! DEFINITION. The source's four pure functions `pad`, `expand`, `compress` and `hash` on plain lists, as 40_padder.md R80 to R82,
41_scheduler.md R102, R103, R107, 42_compressor.md R134 and 43_composite.md R152 give them. No command calls them: statements
compare the machine, with its registers, its padded view and its block loop, with these. -/

namespace Sys2Proof.Machine.Reference

/-- `k = (55 - L) mod 64`, the number of zero fill bytes, as the least non-negative residue (R81). -/
def zeroFill (len : Nat) : Nat := ((55 - (len : Int)) % 64).toNat

/-- `pad`: the message, 0x80, k zero bytes, and the length in bits modulo 2^64 as eight big-endian bytes (R80, R82). -/
def pad (m : List Byte) : List Byte :=
  m ++ [0x80] ++ List.replicate (zeroFill m.length) 0 ++ bytesBE64 (BitVec.ofNat 64 (8 * m.length))

/-- The consecutive 64-byte slices of a padded message (20_memory.md R43). -/
def blocks (p : List Byte) : List (List Byte) :=
  (List.range (p.length / 64)).map fun j => (p.drop (64 * j)).take 64

/-- The words of a block: four consecutive bytes each, big-endian (R102). -/
def beWords : List Byte → List Word
  | b0 :: b1 :: b2 :: b3 :: rest => be32 b0 b1 b2 b3 :: beWords rest
  | _ => []

/-- `n` further schedule words, the word at place i from the words at places i-2, i-7, i-15 and i-16 (R103). -/
def extend (w : List Word) : Nat → List Word
  | 0 => w
  | n + 1 =>
    let ws := extend w n
    ws ++ [smallSigma1 (ws.getD (n + 14) 0) + ws.getD (n + 9) 0 + smallSigma0 (ws.getD (n + 1) 0) + ws.getD n 0]

/-- `expand`: the 64 schedule words of a block (R107). -/
def expand (block : List Byte) : List Word := extend (beWords block) 48

/-- One round on the eight working values, with the round's constant and schedule word (R128). -/
def mix : List Word → Word × Word → List Word
  | [v0, v1, v2, v3, v4, v5, v6, v7], (k, x) =>
    let t1 := v7 + bigSigma1 v4 + ch v4 v5 v6 + k + x
    let t2 := bigSigma0 v0 + maj v0 v1 v2
    [t1 + t2, v0, v1, v2, v3 + t1, v4, v5, v6]
  | v, _ => v

/-- `compress`: 64 rounds from the state, then the word by word sum with it (R134). -/
def compress (state : List Word) (schedule : List Word) : List Word :=
  List.zipWith (· + ·) state ((List.zip kTable schedule).foldl mix state)

/-- The HashState after all blocks of a padded message, in order, from IV (43_composite.md R151, R153). -/
def hashState (m : List Byte) : List Word :=
  (blocks (pad m)).foldl (fun state block => compress state (expand block)) IV.toList

/-- `hash`: the 32 digest bytes (R152). -/
def hash (m : List Byte) : List Byte := (hashState m).flatMap bytesBE32

end Sys2Proof.Machine.Reference
end

