-- ==== Sys2Proof/Safety.lean ====
section
/-! DEFINITION. The terms claims use: runs of commands, a faulted run (60_exceptions.md R164), and the invariant of the block. -/

namespace Sys2Proof.Machine

/-- The commands of a list, one after another (20_memory.md R52). -/
def execAll : List Instr → State → Outcome
  | [], s => .next s
  | i :: rest, s =>
    match exec i s with
    | .next t => execAll rest t
    | .fault r => .fault r
    | .refused r => .refused r

/-- A faulted run: an error has been recorded since reset (R164). A host distrusts every result from then on. -/
abbrev State.faulted (s : State) : Prop := s.err = true

/-- What a word with the opcode of a command without operands does (30_encoding.md R61, R62): the command, or
RESERVED_FIELD and nothing else. -/
def takesNoOperands (op : BitVec 8) (i : Instr) : Prop :=
  ∀ (cmd : CommandWord) (s : State), opField cmd = op →
    issue cmd s = if idxField cmd = 0 ∧ dataField cmd = 0 then exec i s else .next (s.raise .reservedField op)

/-- What a word with the opcode of a command with a block index does (R61, R62). -/
def takesBlockIndex (op : BitVec 8) (i : BitVec 32 → Instr) : Prop :=
  ∀ (cmd : CommandWord) (s : State), opField cmd = op →
    issue cmd s = if idxField cmd = 0 then exec (i (dataField cmd)) s else .next (s.raise .reservedField op)

/-- What a word with the opcode of a command with an index and a word does (R61): no field is reserved. -/
def takesIndexAndWord (op : BitVec 8) (i : BitVec 24 → Word → Instr) : Prop :=
  ∀ (cmd : CommandWord) (s : State), opField cmd = op → issue cmd s = exec (i (idxField cmd) (dataField cmd)) s

/-- The assigned opcodes whose idx field must be zero (R61). -/
def idxReserved : List Nat := [0x01, 0x02, 0x03, 0x10, 0x20, 0x22, 0x30, 0x31, 0x32, 0x33, 0x40, 0x41]

/-- The assigned opcodes whose whole data field must be zero (R61). -/
def dataReserved : List Nat := [0x01, 0x03, 0x10, 0x22, 0x30, 0x31, 0x32, 0x33, 0x41]

/-- The assigned opcodes (R63). -/
def assignedOpcodes : List Nat :=
  [0x01, 0x02, 0x03, 0x10, 0x11, 0x20, 0x21, 0x22, 0x30, 0x31, 0x32, 0x33, 0x40, 0x41]

/-- The cause of each error, for a command word in a state, as 60_exceptions.md R161 tells it with the conditions of the
command rules; written from the fields of the word, without the decoder. -/
def errorCause (cmd : CommandWord) (s : State) : ErrorCode → Bool
  | .none => false
  | .illegalOpcode => !assignedOpcodes.contains (opField cmd).toNat
  | .reservedField =>
    (idxReserved.contains (opField cmd).toNat && idxField cmd != 0)
      || (dataReserved.contains (opField cmd).toNat && dataField cmd != 0)
      || (opField cmd == 0x02 && 255 < (dataField cmd).toNat)
  | .badIndex =>
    (opField cmd == 0x11 && 7 < (idxField cmd).toNat) || (opField cmd == 0x21 && 63 < (idxField cmd).toNat)
  | .busy => [0x10, 0x11, 0x20, 0x21, 0x22, 0x30, 0x33, 0x40, 0x41].contains (opField cmd).toNat && s.act
  | .notActive => [0x31, 0x32].contains (opField cmd).toNat && !s.act
  | .roundOrder => (opField cmd == 0x31 && s.rnd == 64) || (opField cmd == 0x32 && s.rnd != 64)
  | .noPad => [0x20, 0x40, 0x41].contains (opField cmd).toNat && !s.padv
  | .blockRange => [0x20, 0x40].contains (opField cmd).toNat && decide (s.nb ≤ (dataField cmd).toNat)
  | .msgFull => opField cmd == 0x02 && decide (s.len = s.capacity)

/-- The order in which failing checks are reported (R165). -/
def errorOrder : List ErrorCode :=
  [.illegalOpcode, .reservedField, .badIndex, .busy, .notActive, .roundOrder, .noPad, .blockRange, .msgFull]

/-- Which errors the commands with an opcode can raise: a row of the table of R162. -/
def errorRow : Nat → List ErrorCode
  | 0x01 => [.reservedField]
  | 0x02 => [.reservedField, .msgFull]
  | 0x03 => [.reservedField]
  | 0x10 => [.reservedField, .busy]
  | 0x11 => [.badIndex, .busy]
  | 0x20 => [.reservedField, .busy, .noPad, .blockRange]
  | 0x21 => [.badIndex, .busy]
  | 0x22 => [.reservedField, .busy]
  | 0x30 => [.reservedField, .busy]
  | 0x31 => [.reservedField, .notActive, .roundOrder]
  | 0x32 => [.reservedField, .notActive, .roundOrder]
  | 0x33 => [.reservedField, .busy]
  | 0x40 => [.reservedField, .busy, .noPad, .blockRange]
  | 0x41 => [.reservedField, .busy, .noPad]
  | _ => [.illegalOpcode]

/-- What every reachable state satisfies. -/
structure State.Inv (s : State) : Prop where
  /-- The message buffer is in its canonical form. -/
  msg_wf : s.msg.wf
  /-- `L <= MAX_MSG_BYTES` (10_state.md R25). -/
  len_le : s.len ≤ s.capacity
  /-- When ACT = 0, RND = 0 (R24). -/
  closed_rnd : s.act = false → s.rnd = 0
  /-- While a compression is open, V is what its first RND rounds make of the H and W it started from, which are still there
  (70_reset_and_hazards.md R186). -/
  open_v : s.act = true → s.v = rounds s.w s.h s.rnd.val (Nat.le_of_lt_succ s.rnd.isLt)
  /-- No error recorded: ECODE = 0 and EOP = 0 (R29). -/
  no_error : s.err = false → s.ecode = .none ∧ s.eop = 0
  /-- An error recorded: its code is one of 1..9 (60_exceptions.md R161). -/
  error_code : s.err = true → s.ecode ≠ .none

end Sys2Proof.Machine
end

