-- ==== Sys2Proof/Certificates/Slice0/Obligations.lean ====
section
/-! DEFINITION. The statements for the provers. Each docstring names the rule of spec/ it formalises. A statement writes a
next state as the old one with the fields the rule changes, so what is not named there, every byte of the message buffer
included, is said to be unchanged; `s.raise code op` is the state with the error recorded, and
`FailureRecordsTheFirstErrorAlone` says what that is. -/

open Sys2Proof Sys2Proof.Machine

/-! Encoding. -/

/-- R61: every operand is taken from its field unchanged, so decoding an encoded command gives it back, with every operand
at every value of its field. -/
def Obligations.DecodeOfEncodeIsTheCommand : Prop := ∀ i : Instr, decode (encode i) = .ok i

/-- R65: a word spells at most one command, and that command's encoding is the word: no bit is ignored. -/
def Obligations.EncodeOfDecodeIsTheWord : Prop :=
  ∀ (cmd : CommandWord) (i : Instr), decode cmd = .ok i → encode i = cmd

/-- R63: a word spells command X exactly when `cmd & mask(X) = match(X)`, for every row of the opcode table. -/
def Obligations.WordSpellsCommandByMatchAndMask : Prop :=
  ∀ cmd : CommandWord, ∀ row ∈ opcodeTable,
    (cmd &&& row.mask = row.pattern ↔ ∃ i, decode cmd = .ok i ∧ i.mnemonic = row.mnemonic)

/-- R60 and the encodings of R66: the three fields of an encoded command are its opcode, its index and its data. -/
def Obligations.EncodedFieldsAreTheOperands : Prop :=
  ∀ i : Instr, opField (encode i) = i.opcode ∧ idxField (encode i) = i.idxOperand ∧
    dataField (encode i) = i.dataOperand

/-- The words of 95_test_vectors.md 2.6, written out from 30_encoding.md R60, R61 and R66, decode as they should. -/
def Obligations.WrittenOutWordsDecode : Prop :=
  decode 0x0100000000000000 = .ok .msgClear ∧ decode 0x0200000000000061 = .ok (.msgAppend 0x61) ∧
  decode 0x0300000000000000 = .ok .pad ∧ decode 0x1000000000000000 = .ok .hInit ∧
  decode 0x11000007deadbeef = .ok (.hWrite 7 0xdeadbeef) ∧ decode 0x2000000000000001 = .ok (.wLoad 1) ∧
  decode 0x2100000f00000018 = .ok (.wWrite 15 0x18) ∧ decode 0x3100000000000000 = .ok .cRound ∧
  decode 0x4000000000000001 = .ok (.block 1) ∧ decode 0x4100000000000000 = .ok .hash ∧
  decode 0xff00000000000000 = .error .illegalOpcode ∧ decode 0x0200000000000100 = .error .reservedField

/-- R64: an opcode outside R63 is illegal whatever the other fields hold, and the command has no other effect than its
error; there are 242 such opcodes. -/
def Obligations.UnassignedOpcodeFailsAsIllegal : Prop :=
  (∀ (s : State) (cmd : CommandWord), (opField cmd).toNat ∉ assignedOpcodes →
    issue cmd s = .next (s.raise .illegalOpcode (opField cmd))) ∧
  ((List.range 256).filter fun n => !assignedOpcodes.contains n).length = 242

/-- R62: an assigned command with a nonzero bit in a field that must be zero fails with RESERVED_FIELD and has no other
effect. -/
def Obligations.NonzeroReservedFieldFails : Prop :=
  ∀ (s : State) (cmd : CommandWord),
    ((opField cmd).toNat ∈ idxReserved ∧ idxField cmd ≠ 0 ∨
      (opField cmd).toNat ∈ dataReserved ∧ dataField cmd ≠ 0 ∨
      opField cmd = 0x02 ∧ 255 < (dataField cmd).toNat) →
    issue cmd s = .next (s.raise .reservedField (opField cmd))

/-- A step runs the decoded command: the word the host issues is taken off the inputs and exec does the rest (30_encoding.md
R65, 20_memory.md R52; the input list is the model's own, notes/assumptions/1.md). -/
def Obligations.StepRunsTheDecodedCommand : Prop :=
  ∀ (s : State) (cmd : CommandWord) (rest : List HostEvent) (i : Instr), s.inputs = .command cmd :: rest →
    step s = issue cmd { s with inputs := rest } ∧ (decode cmd = .ok i → step s = exec i { s with inputs := rest })

/-- 20_memory.md R52: a list of commands issued as words runs one command after another, each from the state the one
before it left (the input list is the model's own, notes/assumptions/1.md). -/
def Obligations.IssuedWordsRunInOrder : Prop :=
  ∀ (is : List Instr) (s : State), s.inputs = is.map (fun i => .command (encode i)) →
    Sys2Proof.core.run is.length s = execAll is { s with inputs := [] }

/-- 30_encoding.md R66: an assembler accepts a mnemonic with exactly the operands of its form, each in the range shown, and
refuses everything else; the command it gives has those operands. That a mnemonic in other letter case is refused is the
model's choice (notes/assumptions/12.md). -/
def Obligations.AssemblerAcceptsExactlyTheForms : Prop :=
  ∀ (mnemonic : String) (args : List Nat) (i : Instr), Assembler.command mnemonic args = some i ↔
    i.wellFormed = true ∧ mnemonic = i.mnemonic ∧ args = Assembler.writtenOperands i

/-- 30_encoding.md R67: each pseudo-command written with numbers is accepted in its one form, and expands to exactly its
commands, in order; no other mnemonic with numbers is accepted as one (MSG_STRING and HASH_MSG take a string and are not
meant here). Three things are the model's choice (notes/assumptions/12.md): R67 gives the operands of MSG_BYTES, LOAD_STATE
and LOAD_SCHED no range, and they are taken in the ranges R66 gives the commands they expand to; MSG_BYTES takes at least one
operand; a mnemonic in other letter case is refused. -/
def Obligations.PseudoCommandsExpandExactly : Prop :=
  ∀ (mnemonic : String) (args : List Nat) (is : List Instr), Assembler.pseudo mnemonic args = some is ↔
    (mnemonic = "MSG_BYTES" ∧ args ≠ [] ∧ (∀ b ∈ args, b < 2 ^ 8) ∧
      is = args.map fun b => .msgAppend (BitVec.ofNat 8 b)) ∨
    (mnemonic = "LOAD_STATE" ∧ args.length = 8 ∧ (∀ v ∈ args, v < 2 ^ 32) ∧
      is = args.mapIdx fun i v => .hWrite (BitVec.ofNat 24 i) (BitVec.ofNat 32 v)) ∨
    (mnemonic = "LOAD_SCHED" ∧ args.length = 16 ∧ (∀ v ∈ args, v < 2 ^ 32) ∧
      is = args.mapIdx fun t v => .wWrite (BitVec.ofNat 24 t) (BitVec.ofNat 32 v)) ∨
    (mnemonic = "ROUNDS" ∧ ∃ n, args = [n] ∧ 1 ≤ n ∧ n ≤ 64 ∧ is = List.replicate n .cRound)

/-! The word functions and the constant tables. -/

/-- 00_scope.md R11: `rotr` is the rotation to the right, for every amount the block uses. -/
def Obligations.RotrRotatesRight : Prop :=
  ∀ (x : Word) (n : Nat), 0 < n → n < 32 → ∀ i, i < 32 → (rotr x n).getLsbD i = x.getLsbD ((i + n) % 32)

/-- R100, R101, R120, R121: the four sigmas, bit by bit, with the rotation and shift amounts of the rules; a shift brings
in zeros. -/
def Obligations.SigmasMixTheNamedBits : Prop :=
  ∀ (x : Word) (i : Nat), i < 32 →
    (smallSigma0 x).getLsbD i =
      (x.getLsbD ((i + 7) % 32) ^^ x.getLsbD ((i + 18) % 32) ^^ (decide (i + 3 < 32) && x.getLsbD (i + 3))) ∧
    (smallSigma1 x).getLsbD i =
      (x.getLsbD ((i + 17) % 32) ^^ x.getLsbD ((i + 19) % 32) ^^ (decide (i + 10 < 32) && x.getLsbD (i + 10))) ∧
    (bigSigma0 x).getLsbD i =
      (x.getLsbD ((i + 2) % 32) ^^ x.getLsbD ((i + 13) % 32) ^^ x.getLsbD ((i + 22) % 32)) ∧
    (bigSigma1 x).getLsbD i =
      (x.getLsbD ((i + 6) % 32) ^^ x.getLsbD ((i + 11) % 32) ^^ x.getLsbD ((i + 25) % 32))

/-- R122: bit by bit Ch takes y where x is 1 and z where x is 0; all ones gives y and zero gives z. -/
def Obligations.ChChoosesBitByBit : Prop :=
  ∀ x y z : Word, (∀ i, i < 32 → (ch x y z).getLsbD i = if x.getLsbD i then y.getLsbD i else z.getLsbD i) ∧
    ch 0xFFFFFFFF y z = y ∧ ch 0 y z = z

/-- R123: bit by bit Maj is the majority; it is symmetric in its three arguments and Maj(x, x, z) = x. -/
def Obligations.MajIsTheBitwiseMajority : Prop :=
  ∀ x y z : Word,
    (∀ i, i < 32 → ((maj x y z).getLsbD i = true ↔
      2 ≤ (x.getLsbD i).toNat + (y.getLsbD i).toNat + (z.getLsbD i).toNat)) ∧
    maj x y z = maj y x z ∧ maj x y z = maj x z y ∧ maj x x z = x

/-- 00_scope.md R12: BE32 puts the first byte highest, and bytesBE32 is its inverse. -/
def Obligations.BigEndianPackingInverts : Prop :=
  (∀ b0 b1 b2 b3 : Byte,
    (be32 b0 b1 b2 b3).toNat = b0.toNat * 2 ^ 24 + b1.toNat * 2 ^ 16 + b2.toNat * 2 ^ 8 + b3.toNat ∧
    bytesBE32 (be32 b0 b1 b2 b3) = [b0, b1, b2, b3]) ∧
  ∀ y : BitVec 64, (bytesBE64 y).map BitVec.toNat = (List.range 8).map fun i => y.toNat / 2 ^ (56 - 8 * i) % 256

/-- R124: K[r] is the first 32 bits of the fractional part of the cube root of the (r+1)-th prime:
`K[r] = floor(cuberoot(p_r * 2^96)) mod 2^32`. -/
def Obligations.KIsCubeRootsOfPrimes : Prop :=
  ∀ r : Fin 64, ∃ c : Nat, c ^ 3 ≤ Nat.nth Nat.Prime r.val * 2 ^ 96 ∧
    Nat.nth Nat.Prime r.val * 2 ^ 96 < (c + 1) ^ 3 ∧ (K r).toNat = c % 2 ^ 32

/-- R125: IV[i] is the first 32 bits of the fractional part of the square root of the (i+1)-th prime:
`IV[i] = floor(sqrt(p_i * 2^64)) mod 2^32`. -/
def Obligations.IVIsSquareRootsOfPrimes : Prop :=
  ∀ i : Fin 8, ∃ c : Nat, c ^ 2 ≤ Nat.nth Nat.Prime i.val * 2 ^ 64 ∧
    Nat.nth Nat.Prime i.val * 2 ^ 64 < (c + 1) ^ 2 ∧ (IV[i.val]).toNat = c % 2 ^ 32

/-! Reset, ports and status. -/

/-- R33, R180: asserting `rst` at any time between two commands sets every piece of state to its reset value, and STATUS
then reads 0 and the digest output is IV's. The host's remaining inputs, the implementation's parameters and earlier replies
are the model's own fields and stay (notes/assumptions/1.md, notes/assumptions/2.md). -/
def Obligations.ResetInputGivesTheResetValues : Prop :=
  ∀ (s : State) (rest : List HostEvent), s.inputs = .reset :: rest → ∃ t, step s = .next t ∧
    t.h = #v[0x6a09e667, 0xbb67ae85, 0x3c6ef372, 0xa54ff53a, 0x510e527f, 0x9b05688c, 0x1f83d9ab, 0x5be0cd19] ∧
    (∀ k (hk : k < 64), t.w[k] = 0) ∧ (∀ k (hk : k < 8), t.v[k] = 0) ∧ t.act = false ∧ t.rnd = 0 ∧ t.msg = [] ∧
    t.len = 0 ∧ t.padv = false ∧ t.err = false ∧ t.ecode = .none ∧ t.eop = 0 ∧ t.status = 0 ∧
    t.digest = 0x6a09e667bb67ae853c6ef372a54ff53a510e527f9b05688c1f83d9ab5be0cd19 ∧
    t.config = s.config ∧ t.inputs = rest ∧ t.replies = s.replies

/-- R180 (read by inference, notes/assumptions/4.md): the block starts nothing by itself and waits. -/
def Obligations.BlockWaitsForTheHost : Prop := ∀ s : State, s.inputs = [] → step s = .next s

/-- 20_memory.md R48 and 10_state.md R27: a read and a sample answer from the current state and change no state of the
block (the record of replies is the model's own, notes/assumptions/1.md). -/
def Obligations.ReadsChangeNoState : Prop :=
  ∀ (s : State) (rest : List HostEvent) (a : BitVec 8),
    (s.inputs = .read a :: rest →
      step s = .next { s with inputs := rest, replies := s.replies ++ [.word (s.readPort a)] }) ∧
    (s.inputs = .sample :: rest →
      step s = .next { s with inputs := rest, replies := s.replies ++ [.digest s.digest] })

/-- R49 and R50: the read-port map, with L and NB in two halves, NB = floor((L + 72) / 64) when PADV = 1 and 0
otherwise; every reserved address reads 0. -/
def Obligations.ReadPortFollowsItsMap : Prop :=
  ∀ (s : State) (a : BitVec 8),
    (∀ i (h : i < 8), a.toNat = i → s.readPort a = s.h[i]) ∧
    (∀ i (h : i < 8), a.toNat = 0x08 + i → s.readPort a = s.v[i]) ∧
    (a = 0x10 → s.readPort a = s.status) ∧
    (a = 0x11 → (s.readPort a).toNat = s.msg.length % 2 ^ 32) ∧
    (a = 0x12 → (s.readPort a).toNat = s.msg.length / 2 ^ 32 % 2 ^ 32) ∧
    (a = 0x13 → (s.readPort a).toNat = if s.padv then (s.msg.length + 72) / 64 % 2 ^ 32 else 0) ∧
    (a = 0x14 → (s.readPort a).toNat = if s.padv then (s.msg.length + 72) / 64 / 2 ^ 32 % 2 ^ 32 else 0) ∧
    (0x15 ≤ a.toNat → a.toNat ≤ 0x3F → s.readPort a = 0) ∧
    (∀ t (h : t < 64), a.toNat = 0x40 + t → s.readPort a = s.w[t]) ∧
    (∀ r : Fin 64, a.toNat = 0x80 + r.val → s.readPort a = K r) ∧
    (∀ i (h : i < 8), a.toNat = 0xC0 + i → s.readPort a = IV[i]) ∧
    (0xC8 ≤ a.toNat → s.readPort a = 0)

/-- R27: `digest[255 - 32i : 224 - 32i] = H[i]`, and byte k of the Digest is `digest[255 - 8k : 248 - 8k]`; it has 32
bytes. -/
def Obligations.DigestOutputSerialisesH : Prop :=
  ∀ s : State, (∀ i (h : i < 8), s.digest.extractLsb' (224 - 32 * i) 32 = s.h[i]) ∧
    s.digestBytes.length = 32 ∧ ∀ k, k < 32 → s.digestBytes[k]? = some (s.digest.extractLsb' (248 - 8 * k) 8)

/-- R28, R161 and R166: each field of STATUS at its bits, ECODE with the number R161 gives each error, the reserved bits 0,
and `err` equal to ERR. -/
def Obligations.StatusWordHasItsFields : Prop :=
  (∀ s : State, s.status.getLsbD 0 = s.err ∧ s.status.getLsbD 1 = s.act ∧ s.status.getLsbD 2 = s.padv ∧
    s.status.extractLsb' 3 5 = 0 ∧ s.status.extractLsb' 8 4 = s.ecode.bits ∧ s.status.extractLsb' 12 4 = 0 ∧
    (s.status.extractLsb' 16 7).toNat = s.rnd.val ∧ s.status.getLsbD 23 = false ∧
    s.status.extractLsb' 24 8 = s.eop ∧ s.errOutput = s.err) ∧
  ErrorCode.none.bits = 0 ∧ ErrorCode.illegalOpcode.bits = 1 ∧ ErrorCode.reservedField.bits = 2 ∧
  ErrorCode.badIndex.bits = 3 ∧ ErrorCode.busy.bits = 4 ∧ ErrorCode.notActive.bits = 5 ∧
  ErrorCode.roundOrder.bits = 6 ∧ ErrorCode.noPad.bits = 7 ∧ ErrorCode.blockRange.bits = 8 ∧ ErrorCode.msgFull.bits = 9

/-! The padder. -/

/-- R84: MSG_CLEAR empties the buffer and disarms the padded view in every state, is idempotent, and takes no operands. -/
def Obligations.MsgClearEmptiesTheBuffer : Prop :=
  (∀ s : State, exec .msgClear s = .next { s with msg := [], padv := false }) ∧
  (∀ s t : State, exec .msgClear s = .next t → exec .msgClear t = .next t) ∧
  takesNoOperands 0x01 .msgClear

/-- R85: MSG_APPEND b below the capacity, whatever ACT is: L grows by one, MsgByte(L_old) = b, every other byte of the
buffer reads as before, PADV = 0 and nothing else changes; at the capacity it fails with MSG_FULL; a nonzero idx or
data[31:8] is RESERVED_FIELD. -/
def Obligations.MsgAppendAddsOneByte : Prop :=
  (∀ (s : State) (b : Byte), s.msg.length ≠ s.config.maxMsgBytes.val → ∃ m : Memory,
    exec (.msgAppend b) s = .next { s with msg := m, padv := false } ∧ m.length = s.msg.length + 1 ∧
    m.byteAt s.msg.length = some b ∧ ∀ a, a ≠ s.msg.length → m.byteAt a = s.msg.byteAt a) ∧
  (∀ (s : State) (b : Byte), s.msg.length = s.config.maxMsgBytes.val →
    exec (.msgAppend b) s = .next (s.raise .msgFull 0x02)) ∧
  ∀ (cmd : CommandWord) (s : State), opField cmd = 0x02 →
    issue cmd s = if idxField cmd = 0 ∧ (dataField cmd).toNat ≤ 255 then exec (.msgAppend (cmd.extractLsb' 0 8)) s
      else .next (s.raise .reservedField 0x02)

/-- R86: PAD arms the padded view in every state, changes nothing else, is idempotent, and takes no operands. -/
def Obligations.PadArmsThePaddedView : Prop :=
  (∀ s : State, exec .pad s = .next { s with padv := true }) ∧
  (∀ s t : State, exec .pad s = .next t → exec .pad t = .next t) ∧
  takesNoOperands 0x03 .pad

/-- R80, R82, R83: the padded view is the message, 0x80, k zero bytes and the length in bits modulo 2^64 as eight
big-endian bytes, for every length (the wrap of R82 included). -/
def Obligations.PaddedViewIsThePaddedMessage : Prop :=
  ∀ m : Memory, (List.range (paddedLength m.length)).map (padByte m) = Reference.pad m.bytes

/-- R81: k = (55 - L) mod 64 lies in 0..63, is the only number there that makes L + 1 + k + 8 a multiple of 64, equals
(64 - ((L + 9) mod 64)) mod 64, and is 0 at L mod 64 = 55; R42: PL = L + 9 + k. -/
def Obligations.ZeroFillIsTheUniqueResidue : Prop :=
  ∀ len : Nat, Reference.zeroFill len < 64 ∧ (len + 1 + Reference.zeroFill len + 8) % 64 = 0 ∧
    (∀ k, k < 64 → (len + 1 + k + 8) % 64 = 0 → k = Reference.zeroFill len) ∧
    Reference.zeroFill len = (64 - (len + 9) % 64) % 64 ∧ (len % 64 = 55 → Reference.zeroFill len = 0) ∧
    paddedLength len = len + 9 + Reference.zeroFill len

/-- R87 items 3 and 4: how NB grows with L, and which block holds the terminator byte. -/
def Obligations.BlockCountGrowsAtFiftySix : Prop :=
  ∀ len : Nat, (len ≤ 55 → blockCount len = 1) ∧ (56 ≤ len → len ≤ 119 → blockCount len = 2) ∧
    blockCount (len + 1) = blockCount len + (if len % 64 = 55 then 1 else 0) ∧
    (len / 64 = blockCount len - 1 ↔ len % 64 ≤ 55) ∧ (len % 64 ≥ 56 → len / 64 = blockCount len - 2)

/-! The scheduler. -/

/-- R104: W_LOAD j with ACT = 0, PADV = 1 and j < NB puts the big-endian words of padded block j into W[0..15] and changes
nothing else; its errors in their order; the last block ends in the length field. -/
def Obligations.WLoadLoadsThePaddedBlock : Prop :=
  (∀ (s : State) (j : BitVec 32), s.act = false → s.padv = true → j.toNat < blockCount s.msg.length →
    ∃ w : Schedule, exec (.wLoad j) s = .next { s with w := w } ∧
      (∀ t (h : t < 16), w[t] = be32 (padByte s.msg (64 * j.toNat + 4 * t)) (padByte s.msg (64 * j.toNat + 4 * t + 1))
        (padByte s.msg (64 * j.toNat + 4 * t + 2)) (padByte s.msg (64 * j.toNat + 4 * t + 3))) ∧
      (∀ t (h : t < 64), 16 ≤ t → w[t] = s.w[t]) ∧
      (j.toNat + 1 = blockCount s.msg.length →
        (w[14].toNat, w[15].toNat) = (8 * s.msg.length % 2 ^ 64 / 2 ^ 32, 8 * s.msg.length % 2 ^ 32)) ∧
      exec (.wLoad j) { s with w := w } = .next { s with w := w }) ∧
  (∀ (s : State) (j : BitVec 32),
    (s.act = true → exec (.wLoad j) s = .next (s.raise .busy 0x20)) ∧
    (s.act = false → s.padv = false → exec (.wLoad j) s = .next (s.raise .noPad 0x20)) ∧
    (s.act = false → s.padv = true → blockCount s.msg.length ≤ j.toNat →
      exec (.wLoad j) s = .next (s.raise .blockRange 0x20))) ∧
  takesBlockIndex 0x20 .wLoad

/-- R105: W_WRITE t, v with t <= 63 and ACT = 0 writes W[t] and nothing else (R184: no other word, W[16..63] included);
t > 63 is BAD_INDEX even while a compression is open; ACT = 1 is BUSY; no field is reserved. -/
def Obligations.WWriteWritesOneWord : Prop :=
  (∀ (s : State) (t : BitVec 24) (v : Word) (h : t.toNat < 64), s.act = false →
    exec (.wWrite t v) s = .next { s with w := s.w.set t.toNat v }) ∧
  (∀ (s : State) (t : BitVec 24) (v : Word), 63 < t.toNat →
    exec (.wWrite t v) s = .next (s.raise .badIndex 0x21)) ∧
  (∀ (s : State) (t : BitVec 24) (v : Word), t.toNat ≤ 63 → s.act = true →
    exec (.wWrite t v) s = .next (s.raise .busy 0x21)) ∧
  takesIndexAndWord 0x21 .wWrite

/-- R106 and R103: W_EXPAND with ACT = 0 keeps W[0..15], makes every further word satisfy the recurrence, and changes
nothing else; it is idempotent and its result depends on W[0..15] alone; ACT = 1 is BUSY; it takes no operands. -/
def Obligations.WExpandSatisfiesTheRecurrence : Prop :=
  (∀ s : State, s.act = false → ∃ w : Schedule, exec .wExpand s = .next { s with w := w } ∧
    (∀ i (h : i < 16), w[i] = s.w[i]) ∧
    (∀ i (h : i < 64), 16 ≤ i →
      w[i] = smallSigma1 w[i - 2] + w[i - 7] + smallSigma0 w[i - 15] + w[i - 16]) ∧
    exec .wExpand { s with w := w } = .next { s with w := w }) ∧
  (∀ s t s' t' : State, (∀ i (h : i < 16), s.w[i] = t.w[i]) → s.act = false → t.act = false →
    exec .wExpand s = .next s' → exec .wExpand t = .next t' → s'.w = t'.w) ∧
  (∀ s : State, s.act = true → exec .wExpand s = .next (s.raise .busy 0x22)) ∧
  takesNoOperands 0x22 .wExpand

/-- R107: for a padded block j, W after W_LOAD j and W_EXPAND is the source's `expand` of the block; for any 16 words, W
after LOAD_SCHED and W_EXPAND is the source's `expand` of the block with these words; neither raises an error. -/
def Obligations.LoadThenExpandIsTheSourceExpand : Prop :=
  (∀ (s : State) (j : BitVec 32), s.act = false → s.padv = true → j.toNat < blockCount s.msg.length →
    ∃ w : Schedule, execAll [.wLoad j, .wExpand] s = .next { s with w := w } ∧
      ∃ b, (Reference.blocks (Reference.pad s.msg.bytes))[j.toNat]? = some b ∧ w.toList = Reference.expand b) ∧
  ∀ (s : State) (ws : List Word), s.act = false → ws.length = 16 →
    ∃ w : Schedule, execAll (Assembler.writesFrom .wWrite 0 ws ++ [.wExpand]) s = .next { s with w := w } ∧
      w.toList = Reference.expand (ws.flatMap bytesBE32)

/-! The compressor. -/

/-- R129: H_INIT with ACT = 0 loads the eight words of IV, which reset has left in H already, and changes nothing else; it is
idempotent; ACT = 1 is BUSY; it takes no operands. -/
def Obligations.HInitLoadsIV : Prop :=
  (∀ s : State, s.act = false → exec .hInit s = .next { s with h := #v[0x6a09e667, 0xbb67ae85, 0x3c6ef372, 0xa54ff53a,
    0x510e527f, 0x9b05688c, 0x1f83d9ab, 0x5be0cd19] }) ∧
  (∀ s t : State, s.act = false → exec .hInit s = .next t → exec .hInit t = .next t) ∧
  (∀ c : Config, exec .hInit (State.resetOf c) = .next (State.resetOf c)) ∧
  (∀ s : State, s.act = true → exec .hInit s = .next (s.raise .busy 0x10)) ∧
  takesNoOperands 0x10 .hInit

/-- R130: H_WRITE i, v with i <= 7 and ACT = 0 writes H[i] and nothing else; i > 7 is BAD_INDEX even while a compression is
open; ACT = 1 is BUSY; no field is reserved. -/
def Obligations.HWriteWritesOneWord : Prop :=
  (∀ (s : State) (i : BitVec 24) (v : Word) (h : i.toNat < 8), s.act = false →
    exec (.hWrite i v) s = .next { s with h := s.h.set i.toNat v }) ∧
  (∀ (s : State) (i : BitVec 24) (v : Word), 7 < i.toNat →
    exec (.hWrite i v) s = .next (s.raise .badIndex 0x11)) ∧
  (∀ (s : State) (i : BitVec 24) (v : Word), i.toNat ≤ 7 → s.act = true →
    exec (.hWrite i v) s = .next (s.raise .busy 0x11)) ∧
  takesIndexAndWord 0x11 .hWrite

/-- R131: C_START with ACT = 0 copies H into V, sets ACT and clears RND, and changes nothing else; an open
compression cannot be restarted, and no command but C_FINISH closes it; it takes no operands. -/
def Obligations.CStartOpensACompression : Prop :=
  (∀ s : State, s.act = false → exec .cStart s = .next { s with v := s.h, act := true, rnd := 0 }) ∧
  (∀ s : State, s.act = true → exec .cStart s = .next (s.raise .busy 0x30)) ∧
  (∀ (i : Instr) (s t : State), s.act = true → exec i s = .next t → t.act = false → i = .cFinish) ∧
  takesNoOperands 0x30 .cStart

/-- R132, with T1 of R126, T2 of R127 and the register shift of R128: C_ROUND with ACT = 1 and RND = r < 64 runs round r
and changes nothing else; its errors in their order; it takes no operands. -/
def Obligations.CRoundRunsTheNextRound : Prop :=
  (∀ (s : State) (r : Fin 64), s.act = true → s.rnd.val = r.val →
    ∀ t1 t2 : Word,
      t1 = s.v[7] + bigSigma1 s.v[4] + ch s.v[4] s.v[5] s.v[6] + K r + s.w[r.val] →
      t2 = bigSigma0 s.v[0] + maj s.v[0] s.v[1] s.v[2] →
      exec .cRound s = .next { s with
        v := #v[t1 + t2, s.v[0], s.v[1], s.v[2], s.v[3] + t1, s.v[4], s.v[5], s.v[6]], rnd := r.succ }) ∧
  (∀ s : State, s.act = false → exec .cRound s = .next (s.raise .notActive 0x31)) ∧
  (∀ s : State, s.act = true → s.rnd = 64 → exec .cRound s = .next (s.raise .roundOrder 0x31)) ∧
  takesNoOperands 0x31 .cRound

/-- R133: C_FINISH with ACT = 1 and RND = 64 adds V into H word by word, clears ACT and RND, and changes nothing else (V
keeps its values); its errors in their order; it takes no operands. -/
def Obligations.CFinishAddsVIntoH : Prop :=
  (∀ s : State, s.act = true → s.rnd = 64 → ∃ h : Registers,
    exec .cFinish s = .next { s with h := h, act := false, rnd := 0 } ∧
      ∀ i (hi : i < 8), (h[i]).toNat = ((s.h[i]).toNat + (s.v[i]).toNat) % 2 ^ 32) ∧
  (∀ s : State, s.act = false → exec .cFinish s = .next (s.raise .notActive 0x32)) ∧
  (∀ s : State, s.act = true → s.rnd ≠ 64 → exec .cFinish s = .next (s.raise .roundOrder 0x32)) ∧
  takesNoOperands 0x32 .cFinish

/-- R135 and R134: COMPRESS with ACT = 0 makes H the source's `compress(H, W)` and V the values after round 63, and changes
nothing else; ACT = 1 is BUSY; it takes no operands. -/
def Obligations.CompressIsTheSourceCompress : Prop :=
  (∀ s : State, s.act = false → ∃ h v : Registers, exec .compress s = .next { s with h := h, v := v } ∧
    h.toList = Reference.compress s.h.toList s.w.toList ∧
    v.toList = (List.zip kTable s.w.toList).foldl Reference.mix s.h.toList) ∧
  (∀ s : State, s.act = true → exec .compress s = .next (s.raise .busy 0x33)) ∧
  takesNoOperands 0x33 .compress

/-- R136: from a state with ACT = 0 (where RND = 0), C_START, 64 C_ROUND and C_FINISH leave exactly the state COMPRESS
leaves. -/
def Obligations.StepCommandsEqualCompress : Prop :=
  ∀ s : State, s.act = false → s.rnd = 0 →
    execAll (.cStart :: List.replicate 64 .cRound ++ [.cFinish]) s = exec .compress s

/-- R186: a compression opened by C_START computes `compress(H, W)` of the H and W it started from. From the state C_START
leaves, for any acts of the host in any number (the input list is the model's own, notes/assumptions/1.md) after each of which
the compression is still open, H and W are those it started from, and C_FINISH at RND = 64 leaves H = compress(H, W) of them.
The same in one state: where the invariant holds, C_FINISH at RND = 64 leaves compress of the H and W then held. -/
def Obligations.OpenCompressionComputesCompress : Prop :=
  (∀ (s s₀ u : State) (n : Nat), s.act = false → exec .cStart s = .next s₀ →
    (∀ k, k ≤ n → ∃ v, Sys2Proof.core.run k s₀ = .next v ∧ v.act = true) → Sys2Proof.core.run n s₀ = .next u →
    u.h = s.h ∧ u.w = s.w ∧ ∀ t, u.rnd = 64 → exec .cFinish u = .next t →
      t.h.toList = Reference.compress s.h.toList s.w.toList) ∧
  ∀ s t : State, s.Inv → s.act = true → s.rnd = 64 → exec .cFinish s = .next t →
    t.h.toList = Reference.compress s.h.toList s.w.toList

/-! Sequencing. -/

/-- R150: BLOCK j with ACT = 0, PADV = 1 and j < NB leaves what W_LOAD j, W_EXPAND and COMPRESS leave: W the source's
`expand` of the block, H the source's `compress` of the old H with it, and only H, W and V changed; its errors in their
order; a nonzero idx is RESERVED_FIELD. -/
def Obligations.BlockProcessesOneBlock : Prop :=
  (∀ (s : State) (j : BitVec 32), s.act = false → s.padv = true → j.toNat < blockCount s.msg.length →
    ∃ (h v : Registers) (w : Schedule), exec (.block j) s = .next { s with h := h, w := w, v := v } ∧
      exec (.block j) s = execAll [.wLoad j, .wExpand, .compress] s ∧
      ∃ b, (Reference.blocks (Reference.pad s.msg.bytes))[j.toNat]? = some b ∧ w.toList = Reference.expand b ∧
        h.toList = Reference.compress s.h.toList (Reference.expand b) ∧
        v.toList = (List.zip kTable (Reference.expand b)).foldl Reference.mix s.h.toList) ∧
  (∀ (s : State) (j : BitVec 32),
    (s.act = true → exec (.block j) s = .next (s.raise .busy 0x40)) ∧
    (s.act = false → s.padv = false → exec (.block j) s = .next (s.raise .noPad 0x40)) ∧
    (s.act = false → s.padv = true → blockCount s.msg.length ≤ j.toNat →
      exec (.block j) s = .next (s.raise .blockRange 0x40))) ∧
  takesBlockIndex 0x40 .block

/-- R151: HASH with ACT = 0 and PADV = 1 makes H the HashState after all blocks in order from IV, W the schedule of the last
block and V its final working values, and changes nothing else; it is idempotent; its errors in their order; it takes no
operands. -/
def Obligations.HashProcessesEveryBlock : Prop :=
  (∀ s : State, s.act = false → s.padv = true →
    ∃ (h v : Registers) (w : Schedule), exec .hash s = .next { s with h := h, w := w, v := v } ∧
      h.toList = Reference.hashState s.msg.bytes ∧
      (∃ front last, Reference.blocks (Reference.pad s.msg.bytes) = front ++ [last] ∧
        w.toList = Reference.expand last ∧
        v.toList = (List.zip kTable (Reference.expand last)).foldl Reference.mix
          (front.foldl (fun st b => Reference.compress st (Reference.expand b)) IV.toList)) ∧
      exec .hash { s with h := h, w := w, v := v } = .next { s with h := h, w := w, v := v }) ∧
  (∀ s : State, (s.act = true → exec .hash s = .next (s.raise .busy 0x41)) ∧
    (s.act = false → s.padv = false → exec .hash s = .next (s.raise .noPad 0x41))) ∧
  takesNoOperands 0x41 .hash

/-- R151 and R152: with NB <= 2^32, HASH leaves exactly what H_INIT, BLOCK 0, ..., BLOCK NB-1 leave. -/
def Obligations.HashEqualsInitThenBlocks : Prop :=
  ∀ s : State, s.act = false → s.padv = true → blockCount s.msg.length ≤ 2 ^ 32 →
    exec .hash s = execAll (.hInit :: (List.range (blockCount s.msg.length)).map fun j => .block (BitVec.ofNat 32 j)) s

/-- R152: for a message of at most MAX_MSG_BYTES bytes, from any state with ACT = 0, the sequence MSG_CLEAR, one MSG_APPEND
for each byte, PAD, HASH raises no error and leaves the digest output equal to the source's `hash`; the same with H_INIT and
the blocks in order in the place of HASH. -/
def Obligations.CommandSequenceHashesTheMessage : Prop :=
  ∀ (s : State) (m : List Byte), s.act = false → m.length ≤ s.config.maxMsgBytes.val →
    (∃ t, execAll (.msgClear :: m.map .msgAppend ++ [.pad, .hash]) s = .next t ∧
      t.err = s.err ∧ t.msg.bytes = m ∧ t.digestBytes = Reference.hash m) ∧
    (blockCount m.length ≤ 2 ^ 32 →
      ∃ t, execAll (.msgClear :: m.map .msgAppend ++ [.pad, .hInit]
          ++ (List.range (blockCount m.length)).map fun j => .block (BitVec.ofNat 32 j)) s = .next t ∧
        t.err = s.err ∧ t.digestBytes = Reference.hash m)

/-! Errors. -/

/-- R29 and R163: a failing command with ERR = 0 sets ERR, ECODE and EOP and nothing else; with ERR = 1 it changes
nothing. -/
def Obligations.FailureRecordsTheFirstErrorAlone : Prop :=
  ∀ (s : State) (code : ErrorCode) (op : BitVec 8),
    (s.err = false → s.raise code op = { s with err := true, ecode := code, eop := op }) ∧
    (s.err = true → s.raise code op = s)

/-- R161 and R165: for every command word in every state, the block fails exactly when one of the causes of R161 holds, with
the error that comes first in the order of R165 and the word's opcode field; when none holds, the error record is as before. -/
def Obligations.FirstCauseInOrderIsReported : Prop :=
  ∀ (s : State) (cmd : CommandWord),
    (∀ code, errorOrder.find? (errorCause cmd s) = some code → issue cmd s = .next (s.raise code (opField cmd))) ∧
    (errorOrder.find? (errorCause cmd s) = none →
      ∃ t, issue cmd s = .next t ∧ t.err = s.err ∧ t.ecode = s.ecode ∧ t.eop = s.eop)

/-- R162: which opcode can raise which error, both ways: each error marked in the table is raised by some word with that
opcode in some state without an error, and no other; any word with an unassigned opcode raises ILLEGAL_OPCODE. -/
def Obligations.ErrorTableIsExact : Prop :=
  (∀ (op : BitVec 8) (code : ErrorCode),
    (∃ (s t : State) (cmd : CommandWord), opField cmd = op ∧ s.err = false ∧ issue cmd s = .next t ∧ t.err = true ∧
      t.ecode = code) ↔ code ∈ errorRow op.toNat) ∧
  ∀ (s : State) (cmd : CommandWord), (opField cmd).toNat ∉ assignedOpcodes →
    issue cmd s = .next (s.raise .illegalOpcode (opField cmd))

/-- R163: a command that records an error has had no other effect. -/
def Obligations.FailingCommandHasNoOtherEffect : Prop :=
  ∀ (i : Instr) (s t : State), s.err = false → exec i s = .next t → t.err = true →
    t = { s with err := true, ecode := t.ecode, eop := i.opcode } ∧ t.ecode ≠ .none

/-- R164: after an error the block goes on by the commands' own rules: what a command does to H, W, V, ACT, RND, MSG and
PADV does not depend on the error record. -/
def Obligations.ErrorRecordDoesNotSteerCommands : Prop :=
  ∀ (i : Instr) (s t : State) (err : Bool) (code : ErrorCode) (op : BitVec 8), exec i s = .next t →
    ∃ t', exec i { s with err := err, ecode := code, eop := op } = .next t' ∧
      { t' with err := t.err, ecode := t.ecode, eop := t.eop } = t

/-- R29 and R168: an error record, once set, is kept by every act of the host but reset. -/
def Obligations.ErrorRecordStaysUntilReset : Prop :=
  ∀ (s t : State) (rest : List HostEvent) (e : HostEvent), s.inputs = e :: rest → e ≠ .reset → s.err = true →
    step s = .next t → t.err = true ∧ t.ecode = s.ecode ∧ t.eop = s.eop

/-- R160 and R188, as the model reads them: every command completes in every state, and so does every step. That nothing
faults and nothing is refused rests on reading an error as a next state (notes/assumptions/3.md), and the step with no input
on reading the wait as a step that changes nothing (notes/assumptions/4.md). -/
def Obligations.EveryStepCompletes : Prop :=
  (∀ (i : Instr) (s : State), ∃ t, exec i s = .next t) ∧ ∀ s : State, ∃ t, step s = .next t

/-! Whole-machine rules. -/

/-- The invariant (10_state.md R24, R25, R29; 70_reset_and_hazards.md R186) is kept by every step, from every state that
meets it. -/
def Obligations.EveryStepKeepsTheInvariant : Prop := ∀ s t : State, s.Inv → step s = .next t → t.Inv

/-- The invariant holds after reset, whatever the implementation's capacity (R33). -/
def Obligations.ResetMeetsTheInvariant : Prop := ∀ c : Config, (State.resetOf c).Inv

/-- R186: while ACT = 1 no command writes W, none but C_FINISH writes H, none but C_ROUND writes V, and none but C_FINISH
closes the compression. -/
def Obligations.OpenCompressionIsInterlocked : Prop :=
  ∀ (i : Instr) (s t : State), s.act = true → exec i s = .next t →
    t.w = s.w ∧ (i ≠ .cFinish → t.h = s.h ∧ t.act = true) ∧ (i ≠ .cRound → t.v = s.v)

/-- R21, R22, R23, R24, R25, R26: which commands can write H, W, V, ACT, RND, MSG and PADV; no command writes the
implementation's parameter, and none acts for the host. -/
def Obligations.OnlyTheNamedCommandsWrite : Prop :=
  ∀ (i : Instr) (s t : State), exec i s = .next t →
    (i.opcode.toNat ∉ [0x10, 0x11, 0x32, 0x33, 0x40, 0x41] → t.h = s.h) ∧
    (i.opcode.toNat ∉ [0x20, 0x21, 0x22, 0x40, 0x41] → t.w = s.w) ∧
    (i.opcode.toNat ∉ [0x30, 0x31, 0x33, 0x40, 0x41] → t.v = s.v) ∧
    (i.opcode.toNat ∉ [0x30, 0x32] → t.act = s.act) ∧ (i.opcode.toNat ∉ [0x30, 0x31, 0x32] → t.rnd = s.rnd) ∧
    (i.opcode.toNat ∉ [0x01, 0x02] → t.msg = s.msg) ∧ (i.opcode.toNat ∉ [0x01, 0x02, 0x03] → t.padv = s.padv) ∧
    t.config = s.config ∧ t.inputs = s.inputs ∧ t.replies = s.replies

/-- R26 and R185: PADV = 1 means PAD has run since MSG last changed: a step that changes MSG leaves PADV = 0, so W_LOAD, BLOCK
and HASH then fail until PAD. -/
def Obligations.ChangedMessageIsDisarmed : Prop :=
  ∀ s t : State, step s = .next t → t.msg ≠ s.msg → t.padv = false
end

