-- ==== Sys2Proof/Laws/Encoding.lean ====
section
/-! SUPPORT. The fields of an assembled command word, and when a rejected or accepted word comes out of `requireZero`. -/

namespace Sys2Proof

/-- Where each bit of an assembled word comes from (30_encoding.md R60). -/
theorem assembleFields_getLsbD (op : BitVec 8) (idx : BitVec 24) (data : BitVec 32) (i : Nat) :
    (assembleFields op idx data).getLsbD i =
      if i < 32 then data.getLsbD i else if i - 32 < 24 then idx.getLsbD (i - 32) else op.getLsbD (i - 32 - 24) := by
  have h := BitVec.getLsbD_append (x := op ++ idx) (y := data) (i := i)
  rw [BitVec.getLsbD_append (x := op) (y := idx)] at h
  exact h

@[simp] theorem opField_assembleFields (op : BitVec 8) (idx : BitVec 24) (data : BitVec 32) :
    opField (assembleFields op idx data) = op := by
  apply BitVec.eq_of_getLsbD_eq
  intro i hi
  simp only [opField, BitVec.getLsbD_extractLsb', assembleFields_getLsbD, hi, decide_true, Bool.true_and]
  rw [if_neg (by omega), if_neg (by omega), show 56 + i - 32 - 24 = i by omega]

@[simp] theorem idxField_assembleFields (op : BitVec 8) (idx : BitVec 24) (data : BitVec 32) :
    idxField (assembleFields op idx data) = idx := by
  apply BitVec.eq_of_getLsbD_eq
  intro i hi
  simp only [idxField, BitVec.getLsbD_extractLsb', assembleFields_getLsbD, hi, decide_true, Bool.true_and]
  rw [if_neg (by omega), if_pos (by omega), show 32 + i - 32 = i by omega]

@[simp] theorem dataField_assembleFields (op : BitVec 8) (idx : BitVec 24) (data : BitVec 32) :
    dataField (assembleFields op idx data) = data := by
  apply BitVec.eq_of_getLsbD_eq
  intro i hi
  simp only [dataField, BitVec.getLsbD_extractLsb', assembleFields_getLsbD, hi, decide_true, Bool.true_and]
  rw [if_pos (by omega), show 0 + i = i by omega]

/-- A word is made of its three fields, with no bit left over. -/
theorem assembleFields_of_fields (cmd : CommandWord) :
    assembleFields (opField cmd) (idxField cmd) (dataField cmd) = cmd := by
  apply BitVec.eq_of_getLsbD_eq
  intro i hi
  rw [assembleFields_getLsbD]
  simp only [opField, idxField, dataField, BitVec.getLsbD_extractLsb']
  split
  · simp [*]
  · split
    · simp [*, show 32 + (i - 32) = i by omega]
    · simp [show i - 32 - 24 < 8 by omega, show 56 + (i - 32 - 24) = i by omega]

/-- Masking works field by field (30_encoding.md R63). -/
theorem assembleFields_and (a m : BitVec 8) (b n : BitVec 24) (c k : BitVec 32) :
    assembleFields a b c &&& assembleFields m n k = assembleFields (a &&& m) (b &&& n) (c &&& k) := by
  apply BitVec.eq_of_getLsbD_eq
  intro i hi
  simp only [BitVec.getLsbD_and, assembleFields_getLsbD]
  split
  · rfl
  · split <;> rfl

/-- Two assembled words are equal exactly when their fields are. -/
theorem assembleFields_inj {a p : BitVec 8} {b q : BitVec 24} {c r : BitVec 32} :
    assembleFields a b c = assembleFields p q r ↔ a = p ∧ b = q ∧ c = r := by
  constructor
  · intro h
    exact ⟨by simpa using congrArg opField h, by simpa using congrArg idxField h, by simpa using congrArg dataField h⟩
  · rintro ⟨rfl, rfl, rfl⟩; rfl

@[simp] theorem requireZero_ok {zero : Bool} {i j : Instr} : requireZero zero i = .ok j ↔ zero = true ∧ i = j := by
  cases zero <;> simp [requireZero]

@[simp] theorem requireZero_error {zero : Bool} {i : Instr} {r : Rejection} :
    requireZero zero i = .error r ↔ zero = false ∧ r = .reservedField := by
  cases zero <;> simp [requireZero, eq_comm]

theorem idxIsZero_iff {cmd : CommandWord} : idxIsZero cmd = true ↔ idxField cmd = 0 := by simp [idxIsZero]

theorem operandsAreZero_iff {cmd : CommandWord} :
    operandsAreZero cmd = true ↔ idxField cmd = 0 ∧ dataField cmd = 0 := by simp [operandsAreZero]

/-- `data[31:8] = 0` says that the data field is a byte. -/
theorem high_bits_zero_iff (d : BitVec 32) : d.extractLsb' 8 24 = 0 ↔ d.toNat ≤ 255 := by
  have hd := d.isLt
  rw [← BitVec.toNat_inj]
  simp only [BitVec.extractLsb'_toNat, BitVec.ofNat_eq_ofNat, BitVec.toNat_ofNat, Nat.shiftRight_eq_div_pow]
  omega

theorem byteOperandOnly_iff {cmd : CommandWord} :
    byteOperandOnly cmd = true ↔ idxField cmd = 0 ∧ (dataField cmd).toNat ≤ 255 := by
  rw [← high_bits_zero_iff]; simp [byteOperandOnly]

/-- The opcode as a bit vector, from its value. -/
theorem opField_of_toNat {cmd : CommandWord} {n : Nat} (h : (opField cmd).toNat = n) : opField cmd = BitVec.ofNat 8 n := by
  simp [← h]

/-- MSG_APPEND's byte is the data field where its upper bits are zero (30_encoding.md R61). -/
theorem byte_setWidth_of_high_zero (d : BitVec 32) (h : d.extractLsb' 8 24 = 0) :
    (d.extractLsb' 0 8).setWidth 32 = d := by
  have hd := BitVec.isLt d
  have h' : d.toNat / 256 = 0 := by
    have := congrArg BitVec.toNat h
    simp only [BitVec.extractLsb'_toNat, Nat.shiftRight_eq_div_pow, BitVec.ofNat_eq_ofNat, BitVec.toNat_ofNat] at this
    omega
  apply BitVec.eq_of_toNat_eq
  simp only [BitVec.toNat_setWidth, BitVec.extractLsb'_toNat, Nat.shiftRight_zero]
  omega

@[simp] theorem byte_setWidth_high (b : Byte) : (b.setWidth 32).extractLsb' 8 24 = 0 := by
  have hb := b.isLt
  apply BitVec.eq_of_toNat_eq
  simp only [BitVec.extractLsb'_toNat, BitVec.toNat_setWidth, Nat.shiftRight_eq_div_pow, BitVec.ofNat_eq_ofNat,
    BitVec.toNat_ofNat]
  omega

@[simp] theorem byte_setWidth_low (b : Byte) : (b.setWidth 32).extractLsb' 0 8 = b := by
  have hb := b.isLt
  apply BitVec.eq_of_toNat_eq
  simp only [BitVec.extractLsb'_toNat, BitVec.toNat_setWidth, Nat.shiftRight_zero]
  omega

end Sys2Proof
end

