-- ==== Sys2Proof/Laws/State.lean ====
section
/-! SUPPORT. One lemma for each field of State under each named update, true by rfl, so that no later proof unfolds a record
update. setWords and rounds are sealed (for this file): comparing two states must not unroll their loops. -/

seal Sys2Proof.Machine.setWords Sys2Proof.Machine.rounds

namespace Sys2Proof.Machine

/-! clearMessage -/

@[simp] theorem State.clearMessage_h (s : State) : s.clearMessage.h = s.h := rfl
@[simp] theorem State.clearMessage_w (s : State) : s.clearMessage.w = s.w := rfl
@[simp] theorem State.clearMessage_v (s : State) : s.clearMessage.v = s.v := rfl
@[simp] theorem State.clearMessage_act (s : State) : s.clearMessage.act = s.act := rfl
@[simp] theorem State.clearMessage_rnd (s : State) : s.clearMessage.rnd = s.rnd := rfl
@[simp] theorem State.clearMessage_msg (s : State) : s.clearMessage.msg = [] := rfl
@[simp] theorem State.clearMessage_padv (s : State) : s.clearMessage.padv = false := rfl
@[simp] theorem State.clearMessage_err (s : State) : s.clearMessage.err = s.err := rfl
@[simp] theorem State.clearMessage_ecode (s : State) : s.clearMessage.ecode = s.ecode := rfl
@[simp] theorem State.clearMessage_eop (s : State) : s.clearMessage.eop = s.eop := rfl
@[simp] theorem State.clearMessage_config (s : State) : s.clearMessage.config = s.config := rfl
@[simp] theorem State.clearMessage_inputs (s : State) : s.clearMessage.inputs = s.inputs := rfl
@[simp] theorem State.clearMessage_replies (s : State) : s.clearMessage.replies = s.replies := rfl

/-! appendByte -/

@[simp] theorem State.appendByte_h (s : State) (b : Byte) : (s.appendByte b).h = s.h := rfl
@[simp] theorem State.appendByte_w (s : State) (b : Byte) : (s.appendByte b).w = s.w := rfl
@[simp] theorem State.appendByte_v (s : State) (b : Byte) : (s.appendByte b).v = s.v := rfl
@[simp] theorem State.appendByte_act (s : State) (b : Byte) : (s.appendByte b).act = s.act := rfl
@[simp] theorem State.appendByte_rnd (s : State) (b : Byte) : (s.appendByte b).rnd = s.rnd := rfl
@[simp] theorem State.appendByte_msg (s : State) (b : Byte) : (s.appendByte b).msg = s.msg.append b := rfl
@[simp] theorem State.appendByte_padv (s : State) (b : Byte) : (s.appendByte b).padv = false := rfl
@[simp] theorem State.appendByte_err (s : State) (b : Byte) : (s.appendByte b).err = s.err := rfl
@[simp] theorem State.appendByte_ecode (s : State) (b : Byte) : (s.appendByte b).ecode = s.ecode := rfl
@[simp] theorem State.appendByte_eop (s : State) (b : Byte) : (s.appendByte b).eop = s.eop := rfl
@[simp] theorem State.appendByte_config (s : State) (b : Byte) : (s.appendByte b).config = s.config := rfl
@[simp] theorem State.appendByte_inputs (s : State) (b : Byte) : (s.appendByte b).inputs = s.inputs := rfl
@[simp] theorem State.appendByte_replies (s : State) (b : Byte) : (s.appendByte b).replies = s.replies := rfl

/-! armPadding -/

@[simp] theorem State.armPadding_h (s : State) : s.armPadding.h = s.h := rfl
@[simp] theorem State.armPadding_w (s : State) : s.armPadding.w = s.w := rfl
@[simp] theorem State.armPadding_v (s : State) : s.armPadding.v = s.v := rfl
@[simp] theorem State.armPadding_act (s : State) : s.armPadding.act = s.act := rfl
@[simp] theorem State.armPadding_rnd (s : State) : s.armPadding.rnd = s.rnd := rfl
@[simp] theorem State.armPadding_msg (s : State) : s.armPadding.msg = s.msg := rfl
@[simp] theorem State.armPadding_padv (s : State) : s.armPadding.padv = true := rfl
@[simp] theorem State.armPadding_err (s : State) : s.armPadding.err = s.err := rfl
@[simp] theorem State.armPadding_ecode (s : State) : s.armPadding.ecode = s.ecode := rfl
@[simp] theorem State.armPadding_eop (s : State) : s.armPadding.eop = s.eop := rfl
@[simp] theorem State.armPadding_config (s : State) : s.armPadding.config = s.config := rfl
@[simp] theorem State.armPadding_inputs (s : State) : s.armPadding.inputs = s.inputs := rfl
@[simp] theorem State.armPadding_replies (s : State) : s.armPadding.replies = s.replies := rfl

/-! writeH -/

@[simp] theorem State.writeH_h (s : State) (i : Nat) (x : Word) : (s.writeH i x).h = s.h.setIfInBounds i x := rfl
@[simp] theorem State.writeH_w (s : State) (i : Nat) (x : Word) : (s.writeH i x).w = s.w := rfl
@[simp] theorem State.writeH_v (s : State) (i : Nat) (x : Word) : (s.writeH i x).v = s.v := rfl
@[simp] theorem State.writeH_act (s : State) (i : Nat) (x : Word) : (s.writeH i x).act = s.act := rfl
@[simp] theorem State.writeH_rnd (s : State) (i : Nat) (x : Word) : (s.writeH i x).rnd = s.rnd := rfl
@[simp] theorem State.writeH_msg (s : State) (i : Nat) (x : Word) : (s.writeH i x).msg = s.msg := rfl
@[simp] theorem State.writeH_padv (s : State) (i : Nat) (x : Word) : (s.writeH i x).padv = s.padv := rfl
@[simp] theorem State.writeH_err (s : State) (i : Nat) (x : Word) : (s.writeH i x).err = s.err := rfl
@[simp] theorem State.writeH_ecode (s : State) (i : Nat) (x : Word) : (s.writeH i x).ecode = s.ecode := rfl
@[simp] theorem State.writeH_eop (s : State) (i : Nat) (x : Word) : (s.writeH i x).eop = s.eop := rfl
@[simp] theorem State.writeH_config (s : State) (i : Nat) (x : Word) : (s.writeH i x).config = s.config := rfl
@[simp] theorem State.writeH_inputs (s : State) (i : Nat) (x : Word) : (s.writeH i x).inputs = s.inputs := rfl
@[simp] theorem State.writeH_replies (s : State) (i : Nat) (x : Word) : (s.writeH i x).replies = s.replies := rfl

/-! writeW -/

@[simp] theorem State.writeW_h (s : State) (t : Nat) (x : Word) : (s.writeW t x).h = s.h := rfl
@[simp] theorem State.writeW_w (s : State) (t : Nat) (x : Word) : (s.writeW t x).w = s.w.setIfInBounds t x := rfl
@[simp] theorem State.writeW_v (s : State) (t : Nat) (x : Word) : (s.writeW t x).v = s.v := rfl
@[simp] theorem State.writeW_act (s : State) (t : Nat) (x : Word) : (s.writeW t x).act = s.act := rfl
@[simp] theorem State.writeW_rnd (s : State) (t : Nat) (x : Word) : (s.writeW t x).rnd = s.rnd := rfl
@[simp] theorem State.writeW_msg (s : State) (t : Nat) (x : Word) : (s.writeW t x).msg = s.msg := rfl
@[simp] theorem State.writeW_padv (s : State) (t : Nat) (x : Word) : (s.writeW t x).padv = s.padv := rfl
@[simp] theorem State.writeW_err (s : State) (t : Nat) (x : Word) : (s.writeW t x).err = s.err := rfl
@[simp] theorem State.writeW_ecode (s : State) (t : Nat) (x : Word) : (s.writeW t x).ecode = s.ecode := rfl
@[simp] theorem State.writeW_eop (s : State) (t : Nat) (x : Word) : (s.writeW t x).eop = s.eop := rfl
@[simp] theorem State.writeW_config (s : State) (t : Nat) (x : Word) : (s.writeW t x).config = s.config := rfl
@[simp] theorem State.writeW_inputs (s : State) (t : Nat) (x : Word) : (s.writeW t x).inputs = s.inputs := rfl
@[simp] theorem State.writeW_replies (s : State) (t : Nat) (x : Word) : (s.writeW t x).replies = s.replies := rfl

/-! loadBlock -/

@[simp] theorem State.loadBlock_h (s : State) (j : Nat) : (s.loadBlock j).h = s.h := rfl
@[simp] theorem State.loadBlock_w (s : State) (j : Nat) : (s.loadBlock j).w = loadWords s.msg j s.w := rfl
@[simp] theorem State.loadBlock_v (s : State) (j : Nat) : (s.loadBlock j).v = s.v := rfl
@[simp] theorem State.loadBlock_act (s : State) (j : Nat) : (s.loadBlock j).act = s.act := rfl
@[simp] theorem State.loadBlock_rnd (s : State) (j : Nat) : (s.loadBlock j).rnd = s.rnd := rfl
@[simp] theorem State.loadBlock_msg (s : State) (j : Nat) : (s.loadBlock j).msg = s.msg := rfl
@[simp] theorem State.loadBlock_padv (s : State) (j : Nat) : (s.loadBlock j).padv = s.padv := rfl
@[simp] theorem State.loadBlock_err (s : State) (j : Nat) : (s.loadBlock j).err = s.err := rfl
@[simp] theorem State.loadBlock_ecode (s : State) (j : Nat) : (s.loadBlock j).ecode = s.ecode := rfl
@[simp] theorem State.loadBlock_eop (s : State) (j : Nat) : (s.loadBlock j).eop = s.eop := rfl
@[simp] theorem State.loadBlock_config (s : State) (j : Nat) : (s.loadBlock j).config = s.config := rfl
@[simp] theorem State.loadBlock_inputs (s : State) (j : Nat) : (s.loadBlock j).inputs = s.inputs := rfl
@[simp] theorem State.loadBlock_replies (s : State) (j : Nat) : (s.loadBlock j).replies = s.replies := rfl

/-! expandSchedule -/

@[simp] theorem State.expandSchedule_h (s : State) : s.expandSchedule.h = s.h := rfl
@[simp] theorem State.expandSchedule_w (s : State) : s.expandSchedule.w = expandWords s.w := rfl
@[simp] theorem State.expandSchedule_v (s : State) : s.expandSchedule.v = s.v := rfl
@[simp] theorem State.expandSchedule_act (s : State) : s.expandSchedule.act = s.act := rfl
@[simp] theorem State.expandSchedule_rnd (s : State) : s.expandSchedule.rnd = s.rnd := rfl
@[simp] theorem State.expandSchedule_msg (s : State) : s.expandSchedule.msg = s.msg := rfl
@[simp] theorem State.expandSchedule_padv (s : State) : s.expandSchedule.padv = s.padv := rfl
@[simp] theorem State.expandSchedule_err (s : State) : s.expandSchedule.err = s.err := rfl
@[simp] theorem State.expandSchedule_ecode (s : State) : s.expandSchedule.ecode = s.ecode := rfl
@[simp] theorem State.expandSchedule_eop (s : State) : s.expandSchedule.eop = s.eop := rfl
@[simp] theorem State.expandSchedule_config (s : State) : s.expandSchedule.config = s.config := rfl
@[simp] theorem State.expandSchedule_inputs (s : State) : s.expandSchedule.inputs = s.inputs := rfl
@[simp] theorem State.expandSchedule_replies (s : State) : s.expandSchedule.replies = s.replies := rfl

/-! loadIV -/

@[simp] theorem State.loadIV_h (s : State) : s.loadIV.h = IV := rfl
@[simp] theorem State.loadIV_w (s : State) : s.loadIV.w = s.w := rfl
@[simp] theorem State.loadIV_v (s : State) : s.loadIV.v = s.v := rfl
@[simp] theorem State.loadIV_act (s : State) : s.loadIV.act = s.act := rfl
@[simp] theorem State.loadIV_rnd (s : State) : s.loadIV.rnd = s.rnd := rfl
@[simp] theorem State.loadIV_msg (s : State) : s.loadIV.msg = s.msg := rfl
@[simp] theorem State.loadIV_padv (s : State) : s.loadIV.padv = s.padv := rfl
@[simp] theorem State.loadIV_err (s : State) : s.loadIV.err = s.err := rfl
@[simp] theorem State.loadIV_ecode (s : State) : s.loadIV.ecode = s.ecode := rfl
@[simp] theorem State.loadIV_eop (s : State) : s.loadIV.eop = s.eop := rfl
@[simp] theorem State.loadIV_config (s : State) : s.loadIV.config = s.config := rfl
@[simp] theorem State.loadIV_inputs (s : State) : s.loadIV.inputs = s.inputs := rfl
@[simp] theorem State.loadIV_replies (s : State) : s.loadIV.replies = s.replies := rfl

/-! openCompression -/

@[simp] theorem State.openCompression_h (s : State) : s.openCompression.h = s.h := rfl
@[simp] theorem State.openCompression_w (s : State) : s.openCompression.w = s.w := rfl
@[simp] theorem State.openCompression_v (s : State) : s.openCompression.v = s.h := rfl
@[simp] theorem State.openCompression_act (s : State) : s.openCompression.act = true := rfl
@[simp] theorem State.openCompression_rnd (s : State) : s.openCompression.rnd = 0 := rfl
@[simp] theorem State.openCompression_msg (s : State) : s.openCompression.msg = s.msg := rfl
@[simp] theorem State.openCompression_padv (s : State) : s.openCompression.padv = s.padv := rfl
@[simp] theorem State.openCompression_err (s : State) : s.openCompression.err = s.err := rfl
@[simp] theorem State.openCompression_ecode (s : State) : s.openCompression.ecode = s.ecode := rfl
@[simp] theorem State.openCompression_eop (s : State) : s.openCompression.eop = s.eop := rfl
@[simp] theorem State.openCompression_config (s : State) : s.openCompression.config = s.config := rfl
@[simp] theorem State.openCompression_inputs (s : State) : s.openCompression.inputs = s.inputs := rfl
@[simp] theorem State.openCompression_replies (s : State) : s.openCompression.replies = s.replies := rfl

/-! finishCompression -/

@[simp] theorem State.finishCompression_h (s : State) : s.finishCompression.h = addRegisters s.h s.v := rfl
@[simp] theorem State.finishCompression_w (s : State) : s.finishCompression.w = s.w := rfl
@[simp] theorem State.finishCompression_v (s : State) : s.finishCompression.v = s.v := rfl
@[simp] theorem State.finishCompression_act (s : State) : s.finishCompression.act = false := rfl
@[simp] theorem State.finishCompression_rnd (s : State) : s.finishCompression.rnd = 0 := rfl
@[simp] theorem State.finishCompression_msg (s : State) : s.finishCompression.msg = s.msg := rfl
@[simp] theorem State.finishCompression_padv (s : State) : s.finishCompression.padv = s.padv := rfl
@[simp] theorem State.finishCompression_err (s : State) : s.finishCompression.err = s.err := rfl
@[simp] theorem State.finishCompression_ecode (s : State) : s.finishCompression.ecode = s.ecode := rfl
@[simp] theorem State.finishCompression_eop (s : State) : s.finishCompression.eop = s.eop := rfl
@[simp] theorem State.finishCompression_config (s : State) : s.finishCompression.config = s.config := rfl
@[simp] theorem State.finishCompression_inputs (s : State) : s.finishCompression.inputs = s.inputs := rfl
@[simp] theorem State.finishCompression_replies (s : State) : s.finishCompression.replies = s.replies := rfl

/-! compressWhole -/

@[simp] theorem State.compressWhole_h (s : State) : s.compressWhole.h = addRegisters s.h (rounds s.w s.h 64 (Nat.le_refl 64)) :=
  rfl
@[simp] theorem State.compressWhole_w (s : State) : s.compressWhole.w = s.w := rfl
@[simp] theorem State.compressWhole_v (s : State) : s.compressWhole.v = rounds s.w s.h 64 (Nat.le_refl 64) := rfl
@[simp] theorem State.compressWhole_act (s : State) : s.compressWhole.act = s.act := rfl
@[simp] theorem State.compressWhole_rnd (s : State) : s.compressWhole.rnd = s.rnd := rfl
@[simp] theorem State.compressWhole_msg (s : State) : s.compressWhole.msg = s.msg := rfl
@[simp] theorem State.compressWhole_padv (s : State) : s.compressWhole.padv = s.padv := rfl
@[simp] theorem State.compressWhole_err (s : State) : s.compressWhole.err = s.err := rfl
@[simp] theorem State.compressWhole_ecode (s : State) : s.compressWhole.ecode = s.ecode := rfl
@[simp] theorem State.compressWhole_eop (s : State) : s.compressWhole.eop = s.eop := rfl
@[simp] theorem State.compressWhole_config (s : State) : s.compressWhole.config = s.config := rfl
@[simp] theorem State.compressWhole_inputs (s : State) : s.compressWhole.inputs = s.inputs := rfl
@[simp] theorem State.compressWhole_replies (s : State) : s.compressWhole.replies = s.replies := rfl

/-! processBlock -/

@[simp] theorem State.processBlock_h (s : State) (j : Nat) : (s.processBlock j).h = addRegisters s.h (rounds (expandWords (loadWords s.msg j s.w)) s.h 64 (Nat.le_refl 64)) :=
  rfl
@[simp] theorem State.processBlock_w (s : State) (j : Nat) : (s.processBlock j).w = expandWords (loadWords s.msg j s.w) :=
  rfl
@[simp] theorem State.processBlock_v (s : State) (j : Nat) : (s.processBlock j).v = rounds (expandWords (loadWords s.msg j s.w)) s.h 64 (Nat.le_refl 64) :=
  rfl
@[simp] theorem State.processBlock_act (s : State) (j : Nat) : (s.processBlock j).act = s.act := rfl
@[simp] theorem State.processBlock_rnd (s : State) (j : Nat) : (s.processBlock j).rnd = s.rnd := rfl
@[simp] theorem State.processBlock_msg (s : State) (j : Nat) : (s.processBlock j).msg = s.msg := rfl
@[simp] theorem State.processBlock_padv (s : State) (j : Nat) : (s.processBlock j).padv = s.padv := rfl
@[simp] theorem State.processBlock_err (s : State) (j : Nat) : (s.processBlock j).err = s.err := rfl
@[simp] theorem State.processBlock_ecode (s : State) (j : Nat) : (s.processBlock j).ecode = s.ecode := rfl
@[simp] theorem State.processBlock_eop (s : State) (j : Nat) : (s.processBlock j).eop = s.eop := rfl
@[simp] theorem State.processBlock_config (s : State) (j : Nat) : (s.processBlock j).config = s.config := rfl
@[simp] theorem State.processBlock_inputs (s : State) (j : Nat) : (s.processBlock j).inputs = s.inputs := rfl
@[simp] theorem State.processBlock_replies (s : State) (j : Nat) : (s.processBlock j).replies = s.replies := rfl

/-! answerRead -/

@[simp] theorem State.answerRead_h (s : State) (a : BitVec 8) : (s.answerRead a).h = s.h := rfl
@[simp] theorem State.answerRead_w (s : State) (a : BitVec 8) : (s.answerRead a).w = s.w := rfl
@[simp] theorem State.answerRead_v (s : State) (a : BitVec 8) : (s.answerRead a).v = s.v := rfl
@[simp] theorem State.answerRead_act (s : State) (a : BitVec 8) : (s.answerRead a).act = s.act := rfl
@[simp] theorem State.answerRead_rnd (s : State) (a : BitVec 8) : (s.answerRead a).rnd = s.rnd := rfl
@[simp] theorem State.answerRead_msg (s : State) (a : BitVec 8) : (s.answerRead a).msg = s.msg := rfl
@[simp] theorem State.answerRead_padv (s : State) (a : BitVec 8) : (s.answerRead a).padv = s.padv := rfl
@[simp] theorem State.answerRead_err (s : State) (a : BitVec 8) : (s.answerRead a).err = s.err := rfl
@[simp] theorem State.answerRead_ecode (s : State) (a : BitVec 8) : (s.answerRead a).ecode = s.ecode := rfl
@[simp] theorem State.answerRead_eop (s : State) (a : BitVec 8) : (s.answerRead a).eop = s.eop := rfl
@[simp] theorem State.answerRead_config (s : State) (a : BitVec 8) : (s.answerRead a).config = s.config := rfl
@[simp] theorem State.answerRead_inputs (s : State) (a : BitVec 8) : (s.answerRead a).inputs = s.inputs := rfl
@[simp] theorem State.answerRead_replies (s : State) (a : BitVec 8) : (s.answerRead a).replies = s.replies ++ [.word (s.readPort a)] :=
  rfl

/-! answerSample -/

@[simp] theorem State.answerSample_h (s : State) : s.answerSample.h = s.h := rfl
@[simp] theorem State.answerSample_w (s : State) : s.answerSample.w = s.w := rfl
@[simp] theorem State.answerSample_v (s : State) : s.answerSample.v = s.v := rfl
@[simp] theorem State.answerSample_act (s : State) : s.answerSample.act = s.act := rfl
@[simp] theorem State.answerSample_rnd (s : State) : s.answerSample.rnd = s.rnd := rfl
@[simp] theorem State.answerSample_msg (s : State) : s.answerSample.msg = s.msg := rfl
@[simp] theorem State.answerSample_padv (s : State) : s.answerSample.padv = s.padv := rfl
@[simp] theorem State.answerSample_err (s : State) : s.answerSample.err = s.err := rfl
@[simp] theorem State.answerSample_ecode (s : State) : s.answerSample.ecode = s.ecode := rfl
@[simp] theorem State.answerSample_eop (s : State) : s.answerSample.eop = s.eop := rfl
@[simp] theorem State.answerSample_config (s : State) : s.answerSample.config = s.config := rfl
@[simp] theorem State.answerSample_inputs (s : State) : s.answerSample.inputs = s.inputs := rfl
@[simp] theorem State.answerSample_replies (s : State) : s.answerSample.replies = s.replies ++ [.digest s.digest] :=
  rfl

/-! applyReset -/

@[simp] theorem State.applyReset_h (s : State) : s.applyReset.h = IV := rfl
@[simp] theorem State.applyReset_w (s : State) : s.applyReset.w = Vector.replicate 64 0 := rfl
@[simp] theorem State.applyReset_v (s : State) : s.applyReset.v = Vector.replicate 8 0 := rfl
@[simp] theorem State.applyReset_act (s : State) : s.applyReset.act = false := rfl
@[simp] theorem State.applyReset_rnd (s : State) : s.applyReset.rnd = 0 := rfl
@[simp] theorem State.applyReset_msg (s : State) : s.applyReset.msg = [] := rfl
@[simp] theorem State.applyReset_padv (s : State) : s.applyReset.padv = false := rfl
@[simp] theorem State.applyReset_err (s : State) : s.applyReset.err = false := rfl
@[simp] theorem State.applyReset_ecode (s : State) : s.applyReset.ecode = .none := rfl
@[simp] theorem State.applyReset_eop (s : State) : s.applyReset.eop = 0 := rfl
@[simp] theorem State.applyReset_config (s : State) : s.applyReset.config = s.config := rfl
@[simp] theorem State.applyReset_inputs (s : State) : s.applyReset.inputs = s.inputs := rfl
@[simp] theorem State.applyReset_replies (s : State) : s.applyReset.replies = s.replies := rfl

/-! Derived quantities that depend on the message, its arming and the capacity alone. -/

@[simp] theorem State.loadIV_nb (s : State) : s.loadIV.nb = s.nb := rfl
@[simp] theorem State.processBlock_nb (s : State) (j : Nat) : (s.processBlock j).nb = s.nb := rfl

theorem State.nb_of_padv (s : State) (h : s.padv = true) : s.nb = blockCount s.len := by
  simp [State.nb, h]

theorem State.nb_of_not_padv (s : State) (h : s.padv = false) : s.nb = 0 := by
  simp [State.nb, h]

end Sys2Proof.Machine
end

