-- ==== Sys2Proof/Laws/Ops.lean ====
section
/-! SUPPORT. What each shared operation does, said once: the message buffer, `setWords`, the rounds, `raise`, `attempt`. -/

namespace Sys2Proof.Machine

/-! The message buffer. -/

theorem Memory.wf_nil : Memory.wf ([] : Memory) := rfl

@[simp] theorem Memory.append_length (m : Memory) (b : Byte) : (m.append b).length = m.length + 1 := by
  simp [Memory.append]

theorem Memory.append_wf {m : Memory} (h : m.wf) (b : Byte) : (m.append b).wf := by
  simp only [Memory.wf, Memory.append_length, List.range_succ] at h ⊢
  simp [Memory.append, h]

theorem Memory.append_byteAt_new (m : Memory) (b : Byte) : (m.append b).byteAt m.length = some b := by
  simp [Memory.append, Memory.byteAt]

theorem Memory.append_byteAt_other (m : Memory) (b : Byte) {a : Nat} (h : a ≠ m.length) :
    (m.append b).byteAt a = m.byteAt a := by
  unfold Memory.append Memory.byteAt
  rcases Nat.lt_or_gt_of_ne h with h | h
  · rw [List.getElem?_append_left h]
  · rw [List.getElem?_append_right (by omega), List.getElem?_eq_none (by simp; omega),
      List.getElem?_eq_none (by omega)]

@[simp] theorem Memory.append_bytes (m : Memory) (b : Byte) : (m.append b).bytes = m.bytes ++ [b] := by
  simp [Memory.append, Memory.bytes]

@[simp] theorem Memory.bytes_length (m : Memory) : m.bytes.length = m.length := by simp [Memory.bytes]

/-- The canonical form has strictly rising addresses. -/
theorem Memory.wf_rising {m : Memory} (h : m.wf) : (m.map Prod.fst).Pairwise (· < ·) := by
  rw [h]; exact List.pairwise_lt_range

/-- In the canonical form the byte at an address is the cell listed under it. -/
theorem Memory.byteAt_eq_lookup {m : Memory} (h : m.wf) (a : Nat) (b : Byte) :
    m.byteAt a = some b ↔ (a, b) ∈ m := by
  have hfst : ∀ k (hk : k < m.length), m[k].1 = k := fun k hk => by
    have := congrArg (fun l => l[k]?) h
    simpa [hk] using this
  simp only [Memory.byteAt, Option.map_eq_some_iff, List.mem_iff_getElem, List.getElem?_eq_some_iff]
  constructor
  · rintro ⟨c, ⟨hk, rfl⟩, rfl⟩
    exact ⟨a, hk, Prod.ext (hfst a hk) rfl⟩
  · rintro ⟨k, hk, he⟩
    have hka : k = a := by rw [← hfst k hk, he]
    subst hka
    exact ⟨m[k], ⟨hk, rfl⟩, by rw [he]⟩

theorem msgByte_eq_bytes (m : Memory) (n : Nat) (h : n < m.length) :
    msgByte m n h = m.bytes[n]'(by simpa using h) := by simp [msgByte, Memory.bytes]

/-! Writing one word. -/

/-- H_WRITE's effect at an index in range (R130). -/
theorem State.writeH_of_lt (s : State) (i : Nat) (v : Word) (h : i < 8) : s.writeH i v = { s with h := s.h.set i v } := by
  simp only [State.writeH]
  congr 1
  apply Vector.ext
  intro k hk
  rw [Vector.getElem_setIfInBounds, Vector.getElem_set]

/-- W_WRITE's effect at an index in range (R105). -/
theorem State.writeW_of_lt (s : State) (t : Nat) (v : Word) (h : t < 64) : s.writeW t v = { s with w := s.w.set t v } := by
  simp only [State.writeW]
  congr 1
  apply Vector.ext
  intro k hk
  rw [Vector.getElem_setIfInBounds, Vector.getElem_set]

/-! Writing a range of schedule words. -/

/-- Outside the written range nothing changes. -/
theorem setWords_outside (f : Schedule → Fin 64 → Word) (lo n : Nat) (h : lo + n ≤ 64) (w : Schedule) (k : Nat)
    (hk : k < 64) (hout : k < lo ∨ lo + n ≤ k) : (setWords f lo n h w)[k] = w[k] := by
  induction n with
  | zero => rfl
  | succ n ih =>
    simp only [setWords]
    rw [Vector.getElem_set_ne _ _ (by omega)]
    exact ih (by omega) (by omega)

/-- A word of the range holds what its own step computed, from the words as they stood at that step. -/
theorem setWords_inside (f : Schedule → Fin 64 → Word) (lo n : Nat) (h : lo + n ≤ 64) (w : Schedule) (m : Nat)
    (hm : m < n) : (setWords f lo n h w)[lo + m] = f (setWords f lo m (by omega) w) ⟨lo + m, by omega⟩ := by
  induction n with
  | zero => omega
  | succ n ih =>
    simp only [setWords]
    rcases Nat.lt_or_ge m n with hlt | hge
    · rw [Vector.getElem_set_ne _ _ (by omega)]
      exact ih (by omega) hlt
    · have : m = n := by omega
      subst this
      simp

/-- A word below the place reached is final: later steps leave it alone. -/
theorem setWords_stable (f : Schedule → Fin 64 → Word) (lo n m : Nat) (h : lo + n ≤ 64) (hm : m ≤ n) (w : Schedule)
    (k : Nat) (hk : k < lo + m) :
    (setWords f lo n h w)[k] = (setWords f lo m (by omega) w)[k] := by
  induction n with
  | zero =>
    have : m = 0 := by omega
    subst this; rfl
  | succ n ih =>
    rcases Nat.lt_or_ge m (n + 1) with hlt | hge
    · simp only [setWords]
      rw [Vector.getElem_set_ne _ _ (by omega)]
      exact ih (by omega) (by omega)
    · have : m = n + 1 := by omega
      subst this; rfl

/-- W_LOAD's words (R104). -/
theorem loadWords_low (m : Memory) (j : Nat) (w : Schedule) (t : Nat) (ht : t < 16) :
    (loadWords m j w)[t] = blockWord m j t := by
  have := setWords_inside (fun _ t => blockWord m j t.val) 0 16 (by decide) w t ht
  simpa [loadWords] using this

theorem loadWords_high (m : Memory) (j : Nat) (w : Schedule) (t : Nat) (ht : t < 64) (h16 : 16 ≤ t) :
    (loadWords m j w)[t] = w[t] :=
  setWords_outside _ 0 16 (by decide) w t ht (by omega)

/-- W_EXPAND leaves words 0..15 alone (R106). -/
theorem expandWords_low (w : Schedule) (t : Nat) (ht : t < 16) : (expandWords w)[t] = w[t] :=
  setWords_outside _ 16 48 (by decide) w t (by omega) (by omega)

/-- Each further word satisfies the recurrence of R103 in the finished schedule. -/
theorem expandWords_high (w : Schedule) (i : Fin 64) (h16 : 16 ≤ i.val) :
    (expandWords w)[i.val] = expandStep (expandWords w) i := by
  have hi := i.isLt
  obtain ⟨m, hm⟩ : ∃ m, i.val = 16 + m := ⟨i.val - 16, by omega⟩
  have hin := setWords_inside expandStep 16 48 (by decide) w m (by omega)
  have hst : ∀ k, (hk : k < 16 + m) →
      (expandWords w)[k] = (setWords expandStep 16 m (by omega) w)[k] := fun k hk =>
    setWords_stable expandStep 16 48 m (by decide) (by omega) w k hk
  obtain ⟨iv, hiv⟩ := i
  simp only at hm h16 ⊢
  subst hm
  rw [show (expandWords w)[16 + m] = _ from hin]
  simp only [expandStep]
  rw [hst (16 + m - 2) (by omega), hst (16 + m - 7) (by omega), hst (16 + m - 15) (by omega),
    hst (16 + m - 16) (by omega)]

/-! Rounds. -/

@[simp] theorem rounds_zero (w : Schedule) (v : Registers) (h : 0 ≤ 64) : rounds w v 0 h = v := rfl

theorem rounds_succ (w : Schedule) (v : Registers) (n : Nat) (h : n + 1 ≤ 64) :
    rounds w v (n + 1) h = compressionRound w (rounds w v n (by omega)) ⟨n, by omega⟩ := rfl

/-- C_ROUND's effect while a round is left. -/
theorem State.runRound_of_lt (s : State) (h : s.rnd.val < 64) :
    s.runRound = { s with v := compressionRound s.w s.v ⟨s.rnd.val, h⟩, rnd := ⟨s.rnd.val + 1, by omega⟩ } := by
  simp [State.runRound, h]

/-! The blocks of HASH change H, W and V alone. -/

theorem State.processBlocks_succ (n : Nat) (s : State) :
    s.processBlocks (n + 1) = (s.processBlocks n).processBlock n := rfl

/-- Everything the block loop leaves alone, in one equation. -/
theorem State.processBlocks_frame (n : Nat) (s : State) :
    s.processBlocks n =
      { s with h := (s.processBlocks n).h, w := (s.processBlocks n).w, v := (s.processBlocks n).v } := by
  induction n with
  | zero => rfl
  | succ n ih => rw [State.processBlocks_succ, ih]; rfl

/-! Errors. -/

theorem State.raise_first (s : State) (code : ErrorCode) (op : BitVec 8) (h : s.err = false) :
    s.raise code op = { s with err := true, ecode := code, eop := op } := by simp [State.raise, h]

theorem State.raise_again (s : State) (code : ErrorCode) (op : BitVec 8) (h : s.err = true) :
    s.raise code op = s := by simp [State.raise, h]

/-- `raise` changes nothing but the error record, which then holds an error (60_exceptions.md R163). -/
theorem State.raise_frame (s : State) (code : ErrorCode) (op : BitVec 8) :
    s.raise code op =
      { s with err := true, ecode := (s.raise code op).ecode, eop := (s.raise code op).eop } := by
  cases h : s.err
  · rw [State.raise_first s code op h]
  · rw [State.raise_again s code op h, ← h]

/-! Commands. -/

theorem attempt_of_pass {op : BitVec 8} {checks : List (Bool × ErrorCode)} {effect : State → State} {s : State}
    (h : firstError checks = none) : attempt op checks effect s = .next (effect s) := by simp [attempt, h]

theorem attempt_of_fail {op : BitVec 8} {checks : List (Bool × ErrorCode)} {effect : State → State} {s : State}
    {code : ErrorCode} (h : firstError checks = some code) :
    attempt op checks effect s = .next (s.raise code op) := by simp [attempt, h]

/-- Everything a command can answer: its first failing check is recorded, or its effect happens. -/
theorem attempt_cases {op : BitVec 8} {checks : List (Bool × ErrorCode)} {effect : State → State} {s t : State}
    (h : attempt op checks effect s = .next t) :
    (∃ code, firstError checks = some code ∧ t = s.raise code op) ∨
      (firstError checks = none ∧ t = effect s) := by
  cases hc : firstError checks with
  | none => rw [attempt_of_pass hc] at h; exact .inr ⟨rfl, (Host.Outcome.next.inj h).symm⟩
  | some code => rw [attempt_of_fail hc] at h; exact .inl ⟨code, rfl, (Host.Outcome.next.inj h).symm⟩

/-- The reported error is the code of one of the checks. -/
theorem firstError_mem {checks : List (Bool × ErrorCode)} {code : ErrorCode} (h : firstError checks = some code) :
    (true, code) ∈ checks := by
  induction checks with
  | nil => simp [firstError] at h
  | cons c rest ih =>
    obtain ⟨fails, e⟩ := c
    cases fails
    · exact List.mem_cons_of_mem _ (ih (by simpa [firstError] using h))
    · simp only [firstError, if_true, Option.some.injEq] at h
      simp [h]

/-- No error is reported exactly when no check fails. -/
theorem firstError_none_iff {checks : List (Bool × ErrorCode)} :
    firstError checks = none ↔ ∀ c ∈ checks, c.1 = false := by
  induction checks with
  | nil => simp [firstError]
  | cons c rest ih =>
    obtain ⟨fails, e⟩ := c
    cases fails <;> simp [firstError, ih]

end Sys2Proof.Machine
end

