-- ==== Sys2Proof/Laws/Exec.lean ====
section
/-! SUPPORT. Once and for all what a command can do: every command is `attempt` of its checks and its effect, and answers a
next state that is either the raised error of its first failing check or its effect. -/

namespace Sys2Proof.Machine

/-- The checks of each command, in the order its meaning makes them. -/
def checksOf : Instr → State → List (Bool × ErrorCode)
  | .msgClear, _ => []
  | .msgAppend _, s => [s.checkRoom]
  | .pad, _ => []
  | .hInit, s => [s.checkIdle]
  | .hWrite i _, s => [(hIndexBad i, .badIndex), s.checkIdle]
  | .wLoad j, s => [s.checkIdle, s.checkPadded, s.checkBlock j]
  | .wWrite t _, s => [(wIndexBad t, .badIndex), s.checkIdle]
  | .wExpand, s => [s.checkIdle]
  | .cStart, s => [s.checkIdle]
  | .cRound, s => [s.checkOpen, s.checkRoundLeft]
  | .cFinish, s => [s.checkOpen, s.checkRoundsDone]
  | .compress, s => [s.checkIdle]
  | .block j, s => [s.checkIdle, s.checkPadded, s.checkBlock j]
  | .hash, s => [s.checkIdle, s.checkPadded]

/-- The effect of each command once its checks have passed. -/
def effectOf : Instr → State → State
  | .msgClear => State.clearMessage
  | .msgAppend b => State.appendByte b
  | .pad => State.armPadding
  | .hInit => State.loadIV
  | .hWrite i v => State.writeH i.toNat v
  | .wLoad j => State.loadBlock j.toNat
  | .wWrite t v => State.writeW t.toNat v
  | .wExpand => State.expandSchedule
  | .cStart => State.openCompression
  | .cRound => State.runRound
  | .cFinish => State.finishCompression
  | .compress => State.compressWhole
  | .block j => State.processBlock j.toNat
  | .hash => State.hashMessage

theorem exec_eq_attempt (i : Instr) (s : State) : exec i s = attempt i.opcode (checksOf i s) (effectOf i) s := by
  cases i <;> rfl

/-- The command's effect, where its checks pass. -/
theorem exec_of_pass {i : Instr} {s : State} (h : firstError (checksOf i s) = none) :
    exec i s = .next (effectOf i s) := by rw [exec_eq_attempt, attempt_of_pass h]

/-- The error of its first failing check, otherwise. -/
theorem exec_of_fail {i : Instr} {s : State} {code : ErrorCode} (h : firstError (checksOf i s) = some code) :
    exec i s = .next (s.raise code i.opcode) := by rw [exec_eq_attempt, attempt_of_fail h]

/-- Everything `exec` can answer. -/
theorem exec_cases {i : Instr} {s t : State} (h : exec i s = .next t) :
    (∃ code, firstError (checksOf i s) = some code ∧ t = s.raise code i.opcode) ∨
      (firstError (checksOf i s) = none ∧ t = effectOf i s) := by
  rw [exec_eq_attempt] at h; exact attempt_cases h

/-- HASH's effect changes H, W and V alone. -/
theorem State.hashMessage_frame (s : State) :
    s.hashMessage = { s with h := s.hashMessage.h, w := s.hashMessage.w, v := s.hashMessage.v } := by
  unfold State.hashMessage
  rw [State.processBlocks_frame]
  rfl

/-- C_ROUND's effect changes V and RND alone. -/
theorem State.runRound_frame (s : State) : s.runRound = { s with v := s.runRound.v, rnd := s.runRound.rnd } := by
  unfold State.runRound; split <;> rfl

/-- No effect touches the error record or the model's own fields. -/
theorem effectOf_keeps (i : Instr) (s : State) :
    (effectOf i s).err = s.err ∧ (effectOf i s).ecode = s.ecode ∧ (effectOf i s).eop = s.eop ∧
      (effectOf i s).config = s.config ∧ (effectOf i s).inputs = s.inputs ∧ (effectOf i s).replies = s.replies := by
  cases i
  case hash => simp only [effectOf]; rw [State.hashMessage_frame]; simp
  case cRound => simp only [effectOf]; rw [State.runRound_frame]; simp
  all_goals simp [effectOf]

end Sys2Proof.Machine
end

