-- ==== Sys2Proof/Laws/PerInstr.lean ====
section
/-! SUPPORT. For every constructor of Instr: its encoding matches its row of spec/opcode_table.json (30_encoding.md R63). -/

namespace Sys2Proof.Laws.MatchesTable

/-- The row of the command's mnemonic holds its encoding: `cmd AND mask = match`. -/
def Statement (i : Instr) : Prop :=
  ∃ row ∈ opcodeTable, row.mnemonic = i.mnemonic ∧ encode i &&& row.mask = row.pattern

/-- A row whose mask and pattern are given field by field. -/
theorem of_fields {i : Instr} {row : OpcodeRow} (m : BitVec 8) (n : BitVec 24) (k : BitVec 32) (hrow : row ∈ opcodeTable)
    (hname : row.mnemonic = i.mnemonic) (hmask : row.mask = assembleFields m n k)
    (hpattern : row.pattern = assembleFields (i.opcode &&& m) (i.idxOperand &&& n) (i.dataOperand &&& k)) :
    Statement i :=
  ⟨row, hrow, hname, by rw [hmask, hpattern, encode, assembleFields_and]⟩

theorem byte_and_mask (b : Byte) : b.setWidth 32 &&& 0xffffff00 = 0 := by
  apply BitVec.eq_of_getLsbD_eq
  intro i hi
  rcases Nat.lt_or_ge i 8 with h | h
  · have hm : (0xffffff00 : BitVec 32).getLsbD i = false := by
      have : i = 0 ∨ i = 1 ∨ i = 2 ∨ i = 3 ∨ i = 4 ∨ i = 5 ∨ i = 6 ∨ i = 7 := by omega
      rcases this with rfl | rfl | rfl | rfl | rfl | rfl | rfl | rfl <;> decide
    rw [BitVec.getLsbD_and, hm, Bool.and_false]; simp
  · have hb : (b.setWidth 32).getLsbD i = false := by
      rw [BitVec.getLsbD_setWidth, BitVec.getLsbD_of_ge b i h, Bool.and_false]
    rw [BitVec.getLsbD_and, hb, Bool.false_and]; simp

theorem msgClear : Statement .msgClear :=
  of_fields (row := ⟨"MSG_CLEAR", 0x0100000000000000, 0xffffffffffffffff⟩) 0xff 0xffffff 0xffffffff (by decide) rfl
    (by decide) (by decide)

theorem msgAppend (b : Byte) : Statement (.msgAppend b) :=
  of_fields (row := ⟨"MSG_APPEND", 0x0200000000000000, 0xffffffffffffff00⟩) 0xff 0xffffff 0xffffff00 (by decide) rfl
    (by decide) (by
      show _ = assembleFields (0x02 &&& 0xff) (0 &&& 0xffffff) (b.setWidth 32 &&& 0xffffff00)
      rw [byte_and_mask]; decide)

theorem pad : Statement .pad :=
  of_fields (row := ⟨"PAD", 0x0300000000000000, 0xffffffffffffffff⟩) 0xff 0xffffff 0xffffffff (by decide) rfl
    (by decide) (by decide)

theorem hInit : Statement .hInit :=
  of_fields (row := ⟨"H_INIT", 0x1000000000000000, 0xffffffffffffffff⟩) 0xff 0xffffff 0xffffffff (by decide) rfl
    (by decide) (by decide)

theorem hWrite (i : BitVec 24) (v : Word) : Statement (.hWrite i v) :=
  of_fields (row := ⟨"H_WRITE", 0x1100000000000000, 0xff00000000000000⟩) 0xff 0 0 (by decide) rfl (by decide)
    (by
      show _ = assembleFields (0x11 &&& 0xff) (i &&& 0#24) (v &&& 0#32)
      rw [BitVec.and_zero, BitVec.and_zero]; decide)

theorem wLoad (j : BitVec 32) : Statement (.wLoad j) :=
  of_fields (row := ⟨"W_LOAD", 0x2000000000000000, 0xffffffff00000000⟩) 0xff 0xffffff 0 (by decide) rfl (by decide)
    (by
      show _ = assembleFields (0x20 &&& 0xff) (0 &&& 0xffffff) (j &&& 0#32)
      rw [BitVec.and_zero]; decide)

theorem wWrite (t : BitVec 24) (v : Word) : Statement (.wWrite t v) :=
  of_fields (row := ⟨"W_WRITE", 0x2100000000000000, 0xff00000000000000⟩) 0xff 0 0 (by decide) rfl (by decide)
    (by
      show _ = assembleFields (0x21 &&& 0xff) (t &&& 0#24) (v &&& 0#32)
      rw [BitVec.and_zero, BitVec.and_zero]; decide)

theorem wExpand : Statement .wExpand :=
  of_fields (row := ⟨"W_EXPAND", 0x2200000000000000, 0xffffffffffffffff⟩) 0xff 0xffffff 0xffffffff (by decide) rfl
    (by decide) (by decide)

theorem cStart : Statement .cStart :=
  of_fields (row := ⟨"C_START", 0x3000000000000000, 0xffffffffffffffff⟩) 0xff 0xffffff 0xffffffff (by decide) rfl
    (by decide) (by decide)

theorem cRound : Statement .cRound :=
  of_fields (row := ⟨"C_ROUND", 0x3100000000000000, 0xffffffffffffffff⟩) 0xff 0xffffff 0xffffffff (by decide) rfl
    (by decide) (by decide)

theorem cFinish : Statement .cFinish :=
  of_fields (row := ⟨"C_FINISH", 0x3200000000000000, 0xffffffffffffffff⟩) 0xff 0xffffff 0xffffffff (by decide) rfl
    (by decide) (by decide)

theorem compress : Statement .compress :=
  of_fields (row := ⟨"COMPRESS", 0x3300000000000000, 0xffffffffffffffff⟩) 0xff 0xffffff 0xffffffff (by decide) rfl
    (by decide) (by decide)

theorem block (j : BitVec 32) : Statement (.block j) :=
  of_fields (row := ⟨"BLOCK", 0x4000000000000000, 0xffffffff00000000⟩) 0xff 0xffffff 0 (by decide) rfl (by decide)
    (by
      show _ = assembleFields (0x40 &&& 0xff) (0 &&& 0xffffff) (j &&& 0#32)
      rw [BitVec.and_zero]; decide)

theorem hash : Statement .hash :=
  of_fields (row := ⟨"HASH", 0x4100000000000000, 0xffffffffffffffff⟩) 0xff 0xffffff 0xffffffff (by decide) rfl
    (by decide) (by decide)

end Sys2Proof.Laws.MatchesTable
end

