-- ==== Sys2Proof/Laws/Ports.lean ====
section
/-! SUPPORT. The read port range by range (20_memory.md R49, R50) and the digest output bit by bit (10_state.md R27). -/

namespace Sys2Proof.Machine

theorem portWord_h (s : State) (i : Nat) (h : i < 8) : s.portWord i = s.h[i] := by
  unfold State.portWord
  rw [dif_pos (by omega)]

theorem portWord_v (s : State) (i : Nat) (h : i < 8) : s.portWord (0x08 + i) = s.v[i] := by
  unfold State.portWord
  rw [dif_neg (by omega), dif_pos (by omega)]
  simp

/-- The reserved addresses below W (R50). -/
theorem portWord_reserved_low (s : State) (a : Nat) (h : 0x15 ≤ a) (h' : a < 0x40) : s.portWord a = 0 := by
  unfold State.portWord
  rw [dif_neg (by omega), dif_neg (by omega), if_neg (by omega), if_neg (by omega), if_neg (by omega),
    if_neg (by omega), if_neg (by omega), if_pos (by omega)]

/-- Above the reserved range the read port is W, K, IV, and reserved again. -/
theorem portWord_high (s : State) (a : Nat) (h : 0x40 ≤ a) :
    s.portWord a =
      if _ : a < 0x80 then s.w[a - 0x40]'(by omega)
      else if _ : a < 0xC0 then K ⟨a - 0x80, by omega⟩
      else if _ : a < 0xC8 then IV[a - 0xC0]'(by omega)
      else 0 := by
  rw [State.portWord, dif_neg (by omega), dif_neg (by omega), if_neg (by omega), if_neg (by omega), if_neg (by omega),
    if_neg (by omega), if_neg (by omega), if_neg (by omega)]

theorem portWord_w (s : State) (t : Nat) (h : t < 64) : s.portWord (0x40 + t) = s.w[t] := by
  rw [portWord_high s _ (by omega), dif_pos (by omega)]
  simp

theorem portWord_k (s : State) (r : Fin 64) : s.portWord (0x80 + r.val) = K r := by
  have := r.isLt
  rw [portWord_high s _ (by omega), dif_neg (by omega), dif_pos (by omega)]
  simp

theorem portWord_iv (s : State) (i : Nat) (h : i < 8) : s.portWord (0xC0 + i) = IV[i] := by
  rw [portWord_high s _ (by omega), dif_neg (by omega), dif_neg (by omega), dif_pos (by omega)]
  simp

/-- The reserved addresses above IV (R50). -/
theorem portWord_reserved_high (s : State) (a : Nat) (h : 0xC8 ≤ a) : s.portWord a = 0 := by
  rw [portWord_high s _ (by omega), dif_neg (by omega), dif_neg (by omega), dif_neg (by omega)]

/-- Which bit of which word of H each bit of the digest output is. -/
theorem digest_getLsbD (s : State) (n : Nat) :
    s.digest.getLsbD n =
      if n < 32 then s.h[7].getLsbD n else if n - 32 < 32 then s.h[6].getLsbD (n - 32)
      else if n - 32 - 32 < 32 then s.h[5].getLsbD (n - 32 - 32)
      else if n - 32 - 32 - 32 < 32 then s.h[4].getLsbD (n - 32 - 32 - 32)
      else if n - 32 - 32 - 32 - 32 < 32 then s.h[3].getLsbD (n - 32 - 32 - 32 - 32)
      else if n - 32 - 32 - 32 - 32 - 32 < 32 then s.h[2].getLsbD (n - 32 - 32 - 32 - 32 - 32)
      else if n - 32 - 32 - 32 - 32 - 32 - 32 < 32 then s.h[1].getLsbD (n - 32 - 32 - 32 - 32 - 32 - 32)
      else s.h[0].getLsbD (n - 32 - 32 - 32 - 32 - 32 - 32 - 32) := by
  unfold State.digest
  repeat rw [BitVec.getLsbD_append]

/-- The digest bytes, word by word. -/
theorem digestBytes_eq (s : State) :
    s.digestBytes = bytesBE32 s.h[0] ++ bytesBE32 s.h[1] ++ bytesBE32 s.h[2] ++ bytesBE32 s.h[3] ++ bytesBE32 s.h[4]
      ++ bytesBE32 s.h[5] ++ bytesBE32 s.h[6] ++ bytesBE32 s.h[7] := by
  have h : s.h.toList = [s.h[0], s.h[1], s.h[2], s.h[3], s.h[4], s.h[5], s.h[6], s.h[7]] := by
    apply List.ext_getElem
    · simp
    · intro n h1 h2
      simp only [Vector.length_toList] at h1
      have : n = 0 ∨ n = 1 ∨ n = 2 ∨ n = 3 ∨ n = 4 ∨ n = 5 ∨ n = 6 ∨ n = 7 := by omega
      rcases this with rfl | rfl | rfl | rfl | rfl | rfl | rfl | rfl <;> simp
  simp [State.digestBytes, h]

end Sys2Proof.Machine
end

