-- ==== Sys2Proof/Tests/Slice0.lean ====
section
/-! SUPPORT. The model's own tests. Every expected value is from spec/95_test_vectors.md, from an example in the rule the test
names, or worked out by hand from that rule. Then, for each obligation with hypotheses, a witness that meets them. -/

namespace Sys2Proof.Tests

open Sys2Proof.Machine

/-! Small states. -/

/-- The next state of an outcome, to be compared. -/
def nextOf : Outcome → Option State
  | .next t => some t
  | .fault _ => none
  | .refused _ => none

/-- A message buffer filled byte by byte. -/
def buffer (bytes : List Byte) : Memory := bytes.foldl Memory.append []

/-- The state after reset and one MSG_APPEND for each byte. -/
def holding (bytes : List Byte) : State := { State.reset with msg := buffer bytes }

/-- The same, padded. -/
def padded (bytes : List Byte) : State := { holding bytes with padv := true }

def abc : State := padded [0x61, 0x62, 0x63]

/-- The 56 bytes "abcdbcdecdefdefgefghfghighijhijkijkljklmklmnlmnomnopnopq" of 95_test_vectors.md P2. -/
def twoBlocks : State :=
  padded ((List.range 14).flatMap fun n => (List.range 4).map fun k => BitVec.ofNat 8 (0x61 + n + k))

/-- An implementation whose buffer holds `n` bytes at most. -/
def withCapacity (n : Fin (2 ^ 64)) (s : State) : State := { s with config := { maxMsgBytes := n } }

/-- A compression opened after reset, `r` rounds of it done. -/
def opened (r : Fin 65) : State :=
  { State.reset with act := true, rnd := r, v := rounds State.reset.w State.reset.h r.val (Nat.le_of_lt_succ r.isLt) }

/-- A state in which the host issues one word. -/
def issuing (cmd : CommandWord) (s : State) : State := { s with inputs := [.command cmd] }

/-- STATUS after the host has issued one word. -/
def statusAfter (cmd : CommandWord) (s : State) : Option Word := (nextOf (step (issuing cmd s))).map State.status

/-- The schedule of 16 words and 48 zeros. -/
def sixteen (ws : List Word) : Schedule := Vector.ofFn fun i => ws.getD i.val 0

/-! Well-formedness: an assembler refuses what is out of range (30_encoding.md R66). -/

theorem test_wellFormed_refuses_h_index : (Instr.hWrite 8 0).wellFormed = false := by decide
theorem test_wellFormed_accepts_h_index : (Instr.hWrite 7 0xdeadbeef).wellFormed = true := by decide
theorem test_wellFormed_refuses_w_index : (Instr.wWrite 64 0).wellFormed = false := by decide
theorem test_wellFormed_accepts_w_index : (Instr.wWrite 63 1).wellFormed = true := by decide

/-! Decoding: words written out from R60 and R61, as in 95_test_vectors.md 2.6. -/

theorem test_decode_padder : decode 0x0100000000000000 = .ok .msgClear ∧
    decode 0x0200000000000061 = .ok (.msgAppend 0x61) ∧ decode 0x02000000000000ff = .ok (.msgAppend 255) ∧
    decode 0x0300000000000000 = .ok .pad := by decide

theorem test_decode_hashState : decode 0x1000000000000000 = .ok .hInit ∧
    decode 0x11000007deadbeef = .ok (.hWrite 7 0xdeadbeef) ∧
    decode 0x11000003a54ff53a = .ok (.hWrite 3 0xa54ff53a) := by decide

theorem test_decode_scheduler : decode 0x2000000000000001 = .ok (.wLoad 1) ∧
    decode 0x2100000f00000018 = .ok (.wWrite 15 0x18) ∧ decode 0x2100003f00000001 = .ok (.wWrite 63 1) ∧
    decode 0x2200000000000000 = .ok .wExpand := by decide

theorem test_decode_compressor : decode 0x3000000000000000 = .ok .cStart ∧ decode 0x3100000000000000 = .ok .cRound ∧
    decode 0x3200000000000000 = .ok .cFinish ∧ decode 0x3300000000000000 = .ok .compress := by decide

theorem test_decode_driver : decode 0x4000000000000000 = .ok (.block 0) ∧ decode 0x4000000000000001 = .ok (.block 1) ∧
    decode 0x4100000000000000 = .ok .hash := by decide

/-- 2.6: the words that spell no command; an index out of range is not among them (R61). -/
theorem test_decode_rejections : decode 0 = .error .illegalOpcode ∧ decode 0xff00000000000000 = .error .illegalOpcode ∧
    decode 0x0200000000000100 = .error .reservedField ∧ decode 0x4100000100000000 = .error .reservedField ∧
    decode 0x1100000800000000 = .ok (.hWrite 8 0) ∧ decode 0x2100004000000000 = .ok (.wWrite 64 0) := by decide

theorem test_encode : encode (.msgAppend 0x61) = 0x0200000000000061 ∧
    encode (.hWrite 3 0xa54ff53a) = 0x11000003a54ff53a ∧ encode (.wWrite 63 1) = 0x2100003f00000001 ∧
    encode (.block 1) = 0x4000000000000001 ∧ encode .hash = 0x4100000000000000 := by decide

/-- No word matches two rows of the opcode table. -/
theorem test_table_rows_disjoint :
    opcodeTable.Pairwise fun a b => a.mask &&& b.mask &&& (a.pattern ^^^ b.pattern) ≠ 0 := by decide

theorem test_decodeTableWord : decodeTableWord 64 0x2100003f00000001 = some (.wWrite 63 1) ∧
    decodeTableWord 64 0x0000000000000000 = none := by decide

/-- The first step after placing a word runs it: MSG_APPEND 0x61 on the empty buffer (R85's example). -/
theorem test_withFetchWord : (nextOf (step (State.reset.withFetchWord 64 0x0200000000000061))).map (fun t =>
    (t.msg, t.inputs)) = some ([(0, 0x61)], []) := by decide

/-! Assembly lines (R66 and R67, with the examples of R66). -/

theorem test_assembler_comment :
    Assembler.line "H_WRITE 3, 0xa54ff53a ; word 3".toList = some [.hWrite 3 0xa54ff53a] := by decide

theorem test_assembler_refuses : Assembler.line "W_WRITE 64, 1".toList = none ∧
    Assembler.line "MSG_APPEND 256".toList = none ∧ Assembler.line "HASH 1".toList = none := by decide

theorem test_assembler_pseudo : Assembler.line "HASH_MSG \"a;\"".toList =
      some [.msgClear, .msgAppend 0x61, .msgAppend 0x3b, .pad, .hash] ∧
    Assembler.line "LOAD_STATE 0,1,2,3,4,5,6,7".toList = some [.hWrite 0 0, .hWrite 1 1, .hWrite 2 2, .hWrite 3 3,
      .hWrite 4 4, .hWrite 5 5, .hWrite 6 6, .hWrite 7 7] ∧
    Assembler.line "ROUNDS 3".toList = some [.cRound, .cRound, .cRound] := by decide

/-! Word functions: the tables of 95_test_vectors.md 2.1, and its wrap-around sums. -/

theorem test_rotations : [rotr 0xdeadbeef 7, shr 0xdeadbeef 3, shl 0x80000001 1] =
    [0xdfbd5b7d, 0x1bd5b7dd, 0x00000002] := by decide

theorem test_small_sigmas : [0x00000001, 0xffffffff, 0x61626380, 0xdeadbeef].map
      (fun x => (smallSigma0 x, smallSigma1 x)) =
    [(0x02004000, 0x0000a000), (0x1fffffff, 0x003fffff), (0x940e90ef, 0x7da86405), (0xabd31b0b, 0x689dbfec)] := by
  decide

theorem test_big_sigmas : [0x00000001, 0xffffffff, 0x12345678, 0xdeadbeef].map (fun x => (bigSigma0 x, bigSigma1 x)) =
    [(0x40080400, 0x04200080), (0xffffffff, 0xffffffff), (0x66146474, 0x3561abda), (0xb62e25ac, 0x345e14a3)] := by
  decide

theorem test_choose_and_majority :
    ch 0xf0f0f0f0 0xcccccccc 0xaaaaaaaa = 0xcacacaca ∧ maj 0xf0f0f0f0 0xcccccccc 0xaaaaaaaa = 0xe8e8e8e8 ∧
    ch 0xf0f0f0f0 0xaaaaaaaa 0x55555555 = 0xa5a5a5a5 ∧ maj 0 0x12345678 0x9abcdef0 = 0x12345670 := by decide

theorem test_sums_wrap : (0xFFFFFFFF : Word) + 1 = 0 ∧ (0x80000000 : Word) + 0x80000000 = 0 ∧
    (0xFFFFFFFF : Word) + 0xFFFFFFFF + 0xFFFFFFFF + 0xFFFFFFFF + 0xFFFFFFFF = 0xfffffffb := by decide

theorem test_big_endian : be32 0x61 0x62 0x63 0x80 = 0x61626380 ∧ bytesBE32 0x61626380 = [0x61, 0x62, 0x63, 0x80] ∧
    bytesBE64 0x18 = [0, 0, 0, 0, 0, 0, 0, 0x18] := by decide

theorem test_constants : [K 0, K 8, K 23, K 63] = [0x428a2f98, 0xd807aa98, 0x76f988da, 0xc67178f2] ∧
    IV.toList = [0x6a09e667, 0xbb67ae85, 0x3c6ef372, 0xa54ff53a, 0x510e527f, 0x9b05688c, 0x1f83d9ab, 0x5be0cd19] := by
  decide

/-! The padder (95_test_vectors.md 2.2; R84 to R86). -/

theorem test_block_counts : [0, 55, 56, 63, 64, 119, 120].map (fun n => (Reference.zeroFill n, paddedLength n, blockCount n)) =
    [(55, 64, 1), (0, 64, 1), (63, 128, 2), (56, 128, 2), (55, 128, 2), (0, 128, 2), (63, 192, 3)] := by decide

/-- The length field wraps from L = 2^61 on (R82). -/
theorem test_length_field : [2 ^ 61 - 1, 2 ^ 61, 2 ^ 61 + 1, 2 ^ 64 - 1].map lengthField =
    [0xfffffffffffffff8, 0, 8, 0xfffffffffffffff8] := by decide

theorem test_msgClear : (nextOf (exec .msgClear abc)).map (fun t => (t.len, t.padv)) = some (0, false) := by decide

theorem test_msgAppend : (nextOf (exec (.msgAppend 0x64) abc)).map (fun t => (t.msg, t.padv)) =
    some ([(0, 0x61), (1, 0x62), (2, 0x63), (3, 0x64)], false) := by decide

theorem test_pad : (nextOf (exec .pad (holding [0x61, 0x62, 0x63]))).map (fun t =>
    (t.padv, t.nb, [0, 3, 4, 55, 56, 62, 63].map (padByte t.msg))) =
    some (true, 1, [0x61, 0x80, 0, 0, 0, 0, 0x18]) := by decide

/-! The scheduler (95_test_vectors.md 2.3). -/

theorem test_wLoad : (nextOf (exec (.wLoad 0) abc)).map (fun t => t.w) =
    some (sixteen [0x61626380, 0, 0, 0, 0, 0, 0, 0, 0, 0, 0, 0, 0, 0, 0, 0x18]) := by decide

/-- Block 1 of a 56-byte message is zeros and the length field 0x1c0 (P2); words 16 to 63 stay. -/
theorem test_wLoad_last_block : (nextOf (exec (.wLoad 1) { twoBlocks with w := Vector.replicate 64 7 })).map (fun t =>
    ([0, 13, 14, 15].map (fun k => t.w.toList.getD k 1), t.w[16], t.w[63])) = some ([0, 0, 0, 0x1c0], 7, 7) := by decide

theorem test_wWrite : (nextOf (exec (.wWrite 63 1) State.reset)).map (fun t => (t.w[62], t.w[63], t.h)) =
    some (0, 1, IV) := by decide

theorem test_wExpand : (nextOf (exec .wExpand { State.reset with
      w := sixteen [0x61626380, 0, 0, 0, 0, 0, 0, 0, 0, 0, 0, 0, 0, 0, 0, 0x18] })).map (fun t =>
      [t.w[15], t.w[16], t.w[17], t.w[18], t.w[31], t.w[32], t.w[63]]) =
    some [0x18, 0x61626380, 0x000f0000, 0x7da86405, 0xd3b7973b, 0x93f5997f, 0x12b1edeb] := by decide +kernel

theorem test_wExpand_wraps : (nextOf (exec .wExpand { State.reset with w := Vector.replicate 64 0xffffffff })).map
      (fun t => [t.w[16], t.w[18], t.w[23], t.w[56], t.w[63]]) =
    some [0x203ffffc, 0x20099be4, 0xda3bad30, 0x71b516d9, 0x4bceaf09] := by decide +kernel

/-! The compressor (95_test_vectors.md 2.4; R129 to R135). -/

theorem test_hInit : (nextOf (exec .hInit { State.reset with h := Vector.replicate 8 5 })).map (fun t => t.h.toList) =
    some [0x6a09e667, 0xbb67ae85, 0x3c6ef372, 0xa54ff53a, 0x510e527f, 0x9b05688c, 0x1f83d9ab, 0x5be0cd19] := by decide

theorem test_hWrite : (nextOf (exec (.hWrite 7 0) State.reset)).map (fun t => t.h.toList) =
    some [0x6a09e667, 0xbb67ae85, 0x3c6ef372, 0xa54ff53a, 0x510e527f, 0x9b05688c, 0x1f83d9ab, 0] := by decide

theorem test_cStart : (nextOf (exec .cStart State.reset)).map (fun t => (t.v, t.act, t.rnd, t.status)) =
    some (IV, true, 0, 0x00000002) := by decide

/-- Round 0 of "abc" (R132's example). -/
theorem test_cRound : (nextOf (exec .cRound { opened 0 with
      w := sixteen [0x61626380, 0, 0, 0, 0, 0, 0, 0, 0, 0, 0, 0, 0, 0, 0, 0x18] })).map (fun t => (t.v, t.rnd)) =
    some (#v[0x5d6aebcd, 0x6a09e667, 0xbb67ae85, 0x3c6ef372, 0xfa2a4622, 0x510e527f, 0x9b05688c, 0x1f83d9ab], 1) := by
  decide

/-- Round 0 alone from V = 0, with W[0] = 0. -/
theorem test_cRound_of_zeros : (nextOf (exec .cRound { opened 0 with v := Vector.replicate 8 0 })).map (fun t => t.v) =
    some #v[0x428a2f98, 0, 0, 0, 0x428a2f98, 0, 0, 0] := by decide

/-- The final addition of "abc": V of round 63 onto IV (R133's example); V stays. -/
theorem test_cFinish : (nextOf (exec .cFinish { State.reset with act := true, rnd := 64, v := #v[0x506e3058, 0xd39a2165,
      0x04d24d6c, 0xb85e2ce9, 0x5ef50f24, 0xfb121210, 0x948d25b6, 0x961f4894] })).map (fun t =>
      (t.h, t.v[0], t.act, t.rnd)) =
    some (#v[0xba7816bf, 0x8f01cfea, 0x414140de, 0x5dae2223, 0xb00361a3, 0x96177a9c, 0xb410ff61, 0xf20015ad],
      0x506e3058, false, 0) := by decide

theorem test_compress_ones : (nextOf (exec .compress { State.reset with
      h := Vector.replicate 8 0xffffffff
      w := Vector.replicate 64 0xffffffff })).map (fun t => t.h) =
    some #v[0xd4eafca5, 0xe14a90aa, 0x62692f4b, 0xed58d13e, 0x860aa9a2, 0xf988b058, 0xdc1d9a7d, 0x25f02937] := by decide +kernel

/-! Sequencing (95_test_vectors.md 2.5). -/

theorem test_block : (nextOf (exec (.block 0) abc)).map (fun t => (t.h, t.w[63], t.v[0])) =
    some (#v[0xba7816bf, 0x8f01cfea, 0x414140de, 0x5dae2223, 0xb00361a3, 0x96177a9c, 0xb410ff61, 0xf20015ad],
      0x12b1edeb, 0x506e3058) := by decide +kernel

theorem test_hash_empty : (nextOf (exec .hash (padded []))).map State.digest =
    some 0xe3b0c44298fc1c149afbf4c8996fb92427ae41e4649b934ca495991b7852b855 := by decide +kernel

theorem test_hash_two_blocks : (nextOf (exec .hash twoBlocks)).map State.digest =
    some 0x248d6a61d20638b8e5c026930c3e6039a33ce45964ff2167f6ecedd419db06c1 := by decide +kernel

/-! Errors (95_test_vectors.md 2.7): one row for each code, the priority rows and the first error kept. -/

theorem test_error_rows :
    [statusAfter 0xff00000000000000 State.reset, statusAfter 0x0300000000000001 State.reset,
      statusAfter 0x1100000800000000 State.reset, statusAfter 0x1000000000000000 (opened 0),
      statusAfter 0x3100000000000000 State.reset, statusAfter 0x3200000000000000 (opened 0),
      statusAfter 0x4100000000000000 State.reset, statusAfter 0x2000000000000001 (padded []),
      statusAfter 0x0200000000000061 (withCapacity 0 State.reset)] =
    [some 0xff000101, some 0x03000201, some 0x11000301, some 0x10000403, some 0x31000501, some 0x32000603,
      some 0x41000701, some 0x20000805, some 0x02000901] := by decide

theorem test_error_priority : statusAfter 0x2100004600000005 (opened 0) = some 0x21000303 ∧
    statusAfter 0x3100000000000000 (opened 64) = some 0x31400603 ∧
    statusAfter 0x3100000000000001 State.reset = some 0x31000201 := by decide

theorem test_first_error_kept : statusAfter 0x4100000000000000
    { State.reset with err := true, ecode := .notActive, eop := 0x31 } = some 0x31000501 := by decide

/-- Each error's code is the number of R161. -/
theorem test_error_codes : [ErrorCode.none, .illegalOpcode, .reservedField, .badIndex, .busy, .notActive, .roundOrder, .noPad,
    .blockRange, .msgFull].map ErrorCode.bits = [0, 1, 2, 3, 4, 5, 6, 7, 8, 9] := by decide

/-! The read port and reset (95_test_vectors.md 2.8; R33, R180). -/

theorem test_read_port_after_reset :
    [0x00, 0x07, 0x08, 0x10, 0x11, 0x12, 0x13, 0x14, 0x15, 0x40, 0x7f, 0x80, 0x81, 0xbf, 0xc0, 0xc7, 0xc8, 0xff].map
      State.reset.readPort =
    [0x6a09e667, 0x5be0cd19, 0, 0, 0, 0, 0, 0, 0, 0, 0, 0x428a2f98, 0x71374491, 0xc67178f2, 0x6a09e667, 0x5be0cd19, 0,
      0] := by decide

theorem test_read_port_lengths : [0x10, 0x11, 0x13].map twoBlocks.readPort = [4, 56, 2] ∧
    (holding [0x61]).readPort 0x13 = 0 := by decide

theorem test_read_is_recorded : (nextOf (step { State.reset with inputs := [.read 0x80, .sample] })).map (fun t =>
    (t.replies, t.inputs)) = some ([.word 0x428a2f98], [.sample]) := by decide

theorem test_reset_input : nextOf (step { opened 3 with inputs := [.reset], err := true, ecode := .busy, eop := 0x21 }) =
    some State.reset := by decide

/-! Witnesses: for each obligation with hypotheses, states and operands that meet them, each clause at a boundary. -/

theorem reset_msg_wf : State.reset.msg.wf := by decide

theorem inv_opened (r : Fin 65) : (opened r).Inv where
  msg_wf := reset_msg_wf
  len_le := Nat.zero_le _
  closed_rnd := fun h => nomatch h
  open_v := fun _ => rfl
  no_error := fun _ => ⟨rfl, rfl⟩
  error_code := fun h => nomatch h

theorem inv_abc : abc.Inv where
  msg_wf := by decide
  len_le := by decide
  closed_rnd := fun _ => rfl
  open_v := fun h => nomatch h
  no_error := fun _ => ⟨rfl, rfl⟩
  error_code := fun h => nomatch h

/-- A state with an error on record. -/
def faultedState : State := { State.reset with err := true, ecode := .badIndex, eop := 0x11 }

theorem witness_EncodeOfDecodeIsTheWord : decode 0x21ffffffffffffff = .ok (.wWrite 0xffffff 0xffffffff) ∧
    decode 0x02000000000000ff = .ok (.msgAppend 0xff) := by decide

theorem witness_WordSpellsCommandByMatchAndMask : ∃ row ∈ opcodeTable, row.mnemonic = "BLOCK" ∧
    (0x40000000ffffffff : CommandWord) &&& row.mask = row.pattern ∧
    (0x4000000100000000 : CommandWord) &&& row.mask ≠ row.pattern :=
  ⟨⟨"BLOCK", 0x4000000000000000, 0xffffffff00000000⟩, by decide, rfl, by decide, by decide⟩

theorem witness_UnassignedOpcodeFailsAsIllegal :
    [0x0000000000000000, 0x0400000000000000, 0x4200000100000001, 0xffffffffffffffff].all fun cmd =>
      !assignedOpcodes.contains (opField cmd).toNat := by decide

theorem witness_NonzeroReservedFieldFails :
    ((opField 0x4100000100000000).toNat ∈ idxReserved ∧ idxField 0x4100000100000000 ≠ 0) ∧
    ((opField 0x0300000080000000).toNat ∈ dataReserved ∧ dataField 0x0300000080000000 ≠ 0) ∧
    (opField 0x0200000000000100 = 0x02 ∧ 255 < (dataField 0x0200000000000100).toNat) := by decide

theorem witness_StepRunsTheDecodedCommand : (issuing 0x1100000800000000 abc).inputs = .command 0x1100000800000000 :: [] ∧
    decode 0x1100000800000000 = .ok (.hWrite 8 0) := by decide

theorem witness_IssuedWordsRunInOrder : { abc with inputs := [.command 0x1000000000000000, .command 0x4000000000000000] }.inputs
    = [Instr.hInit, .block 0].map fun i => HostEvent.command (encode i) := by decide

theorem witness_AssemblerAcceptsExactlyTheForms :
    Assembler.command "W_WRITE" [63, 2 ^ 32 - 1] = some (.wWrite 63 0xffffffff) ∧
    (Instr.wWrite 63 0xffffffff).wellFormed = true ∧ "W_WRITE" = (Instr.wWrite 63 0xffffffff).mnemonic ∧
    [63, 2 ^ 32 - 1] = Assembler.writtenOperands (.wWrite 63 0xffffffff) := ⟨rfl, rfl, rfl, rfl⟩

theorem witness_PseudoCommandsExpandExactly :
    Assembler.pseudo "MSG_BYTES" [255] = some [.msgAppend 255] ∧ Assembler.pseudo "ROUNDS" [64] = some (Assembler.rounds 64) ∧
    Assembler.pseudo "LOAD_SCHED" (List.replicate 16 (2 ^ 32 - 1)) =
      some (Assembler.writesFrom .wWrite 0 (List.replicate 16 0xffffffff)) ∧
    Assembler.pseudo "LOAD_STATE" (List.replicate 8 0) = some (Assembler.writesFrom .hWrite 0 (List.replicate 8 0)) := by
  decide

theorem witness_RotrRotatesRight : (0 < 1 ∧ 1 < 32) ∧ (0 < 31 ∧ 31 < 32) ∧ (rotr 1 1).getLsbD 31 = true ∧
    (rotr 1 31).getLsbD 1 = true := by decide

theorem witness_SigmasMixTheNamedBits : (smallSigma0 0xffffffff).getLsbD 31 = false ∧ (31 : Nat) < 32 ∧
    (smallSigma0 0xffffffff).getLsbD 28 = true ∧ (bigSigma1 1).getLsbD 7 = true := by decide

theorem witness_ChChoosesBitByBit : (31 : Nat) < 32 ∧ (ch 0x80000000 0x80000000 1).getLsbD 31 = true ∧
    (ch 0x80000000 0x80000000 1).getLsbD 0 = true := by decide

theorem witness_MajIsTheBitwiseMajority : (31 : Nat) < 32 ∧ (maj 0x80000000 0x80000001 0).getLsbD 31 = true ∧
    (maj 0x80000000 0x80000001 0).getLsbD 0 = false := by decide

theorem witness_ResetInputGivesTheResetValues :
    { opened 64 with inputs := [.reset, .sample] }.inputs = .reset :: [.sample] ∧ (63 : Nat) < 64 ∧ (7 : Nat) < 8 := by
  decide

theorem witness_BlockWaitsForTheHost : (opened 5).inputs = [] := by decide

theorem witness_ReadsChangeNoState : { abc with inputs := [.read 0xff] }.inputs = .read 0xff :: [] ∧
    { abc with inputs := [.sample] }.inputs = .sample :: [] := by decide

/-- The clauses of the map do not overlap: the ranges begin and end at these addresses, in rising order, and the last is 0xFF. -/
theorem witness_ReadPortFollowsItsMap :
    [0x00 + 0, 0x00 + 7, 0x08 + 0, 0x08 + 7, 0x10, 0x11, 0x12, 0x13, 0x14, 0x15, 0x3F, 0x40 + 0, 0x40 + 63, 0x80 + 0,
      0x80 + 63, 0xC0 + 0, 0xC0 + 7, 0xC8, 0xFF].Pairwise (· < ·) ∧ (0xFF : BitVec 8).toNat = 0xFF ∧
    (0x3F : BitVec 8).toNat ≤ 0x3F ∧ (0x7F : BitVec 8).toNat = 0x40 + 63 ∧ (0xBF : BitVec 8).toNat = 0x80 + 63 ∧
    (0xC7 : BitVec 8).toNat = 0xC0 + 7 ∧ (0x0F : BitVec 8).toNat = 0x08 + 7 := by decide

theorem witness_DigestOutputSerialisesH : (State.reset.digest.extractLsb' (224 - 32 * 0) 32 = 0x6a09e667) ∧
    State.reset.digest.extractLsb' (224 - 32 * 7) 32 = 0x5be0cd19 ∧
    State.reset.digestBytes[31]? = some 0x19 := by decide

/-- Each opcode has a word with zero operand fields, one with a nonzero idx and one with a nonzero data field, for the
decoding clause of every command's statement. -/
theorem witness_decoding_clauses : assignedOpcodes.all fun n =>
    opField (assembleFields (BitVec.ofNat 8 n) 0 0) == BitVec.ofNat 8 n &&
    idxField (assembleFields (BitVec.ofNat 8 n) 0x800000 0) == 0x800000 &&
    dataField (assembleFields (BitVec.ofNat 8 n) 0 0x100) == 0x100 := by decide

theorem witness_MsgClearEmptiesTheBuffer : ∃ t, exec .msgClear (opened 7) = .next t := ⟨_, rfl⟩

theorem witness_MsgAppendAddsOneByte : (withCapacity 4 abc).msg.length ≠ (withCapacity 4 abc).config.maxMsgBytes.val ∧
    (withCapacity 3 abc).msg.length = (withCapacity 3 abc).config.maxMsgBytes.val ∧
    (2 : Nat) ≠ (withCapacity 4 abc).msg.length := by decide

theorem witness_PadArmsThePaddedView : ∃ t, exec .pad (opened 7) = .next t := ⟨_, rfl⟩

theorem witness_ZeroFillIsTheUniqueResidue : (55 % 64 = 55 ∧ 0 < 64 ∧ (55 + 1 + 0 + 8) % 64 = 0) ∧
    (63 < 64 ∧ (56 + 1 + 63 + 8) % 64 = 0) := by decide

theorem witness_BlockCountGrowsAtFiftySix : (55 ≤ 55 ∧ blockCount 55 = 1) ∧ (56 ≤ 56 ∧ 56 ≤ 119 ∧ blockCount 56 = 2) ∧
    (56 ≤ 119 ∧ 119 ≤ 119 ∧ blockCount 119 = 2) ∧ 63 % 64 ≥ 56 := by decide

theorem witness_WLoadLoadsThePaddedBlock :
    (twoBlocks.act = false ∧ twoBlocks.padv = true ∧ (1 : BitVec 32).toNat < blockCount twoBlocks.msg.length ∧
      (1 : BitVec 32).toNat + 1 = blockCount twoBlocks.msg.length) ∧
    (opened 0).act = true ∧ (State.reset.act = false ∧ State.reset.padv = false) ∧
    blockCount twoBlocks.msg.length ≤ (2 : BitVec 32).toNat := by decide

theorem witness_WWriteWritesOneWord : ((63 : BitVec 24).toNat < 64 ∧ abc.act = false) ∧ 63 < (64 : BitVec 24).toNat ∧
    ((63 : BitVec 24).toNat ≤ 63 ∧ (opened 64).act = true) := by decide

theorem witness_WExpandSatisfiesTheRecurrence : abc.act = false ∧ (opened 0).act = true ∧ (15 : Nat) < 16 ∧
    (63 < 64 ∧ 16 ≤ 63) := by decide

/-- Two states that agree on W[0..15] and differ beyond. -/
theorem witness_WExpandSatisfiesTheRecurrence_inputs : ∃ s t s' t' : State, (∀ i (h : i < 16), s.w[i] = t.w[i]) ∧ s.w ≠ t.w ∧
    s.act = false ∧ t.act = false ∧ exec .wExpand s = .next s' ∧ exec .wExpand t = .next t' :=
  ⟨State.reset, { State.reset with w := State.reset.w.set 16 1 }, _, _,
    fun i h => by rw [Vector.getElem_set_ne _ _ (by omega)], by decide, rfl, rfl, rfl, rfl⟩

theorem witness_LoadThenExpandIsTheSourceExpand : twoBlocks.act = false ∧ twoBlocks.padv = true ∧
    (1 : BitVec 32).toNat < blockCount twoBlocks.msg.length ∧ (List.replicate 16 (0xffffffff : Word)).length = 16 := by
  decide

theorem witness_HInitLoadsIV : abc.act = false ∧ (opened 0).act = true ∧ ∃ t, exec .hInit abc = .next t :=
  ⟨rfl, rfl, _, rfl⟩

theorem witness_HWriteWritesOneWord : ((7 : BitVec 24).toNat < 8 ∧ abc.act = false) ∧ 7 < (8 : BitVec 24).toNat ∧
    ((7 : BitVec 24).toNat ≤ 7 ∧ (opened 64).act = true) := by decide

theorem witness_CStartOpensACompression : ∃ t, abc.act = false ∧ (opened 64).act = true ∧
    exec .cFinish (opened 64) = .next t ∧ t.act = false := ⟨_, rfl, rfl, rfl, rfl⟩

theorem witness_CRoundRunsTheNextRound : ((opened 0).act = true ∧ (opened 0).rnd.val = (0 : Fin 64).val) ∧
    ((opened 63).act = true ∧ (opened 63).rnd.val = (63 : Fin 64).val) ∧ abc.act = false ∧
    ((opened 64).act = true ∧ (opened 64).rnd = 64) := by decide

theorem witness_CFinishAddsVIntoH : ((opened 64).act = true ∧ (opened 64).rnd = 64) ∧ abc.act = false ∧
    ((opened 63).act = true ∧ (opened 63).rnd ≠ 64) := by decide

theorem witness_CompressIsTheSourceCompress : abc.act = false ∧ (opened 0).act = true := by decide

theorem witness_StepCommandsEqualCompress : abc.act = false ∧ abc.rnd = 0 := by decide

/-- After C_START the host reads, tries to write W (BUSY), and issues the 64 rounds. -/
def openRun : State := { abc with
  v := abc.h
  act := true
  rnd := 0
  inputs := [.read 0, .command 0x2100000000000001] ++ List.replicate 64 (.command 0x3100000000000000) }

/-- The next state of `k` steps of that run, to be looked at. -/
def openRunAfter (k : Nat) : Option State := nextOf (Sys2Proof.core.run k openRun)

theorem openRun_stays_open : (List.range 67).all (fun k => (openRunAfter k).any State.act) = true := by decide +kernel

theorem openRun_reaches_64 : (openRunAfter 66).map State.rnd = some 64 := by decide +kernel

theorem run_of_openRunAfter {k : Nat} {v : State} (h : openRunAfter k = some v) : Sys2Proof.core.run k openRun = .next v := by
  unfold openRunAfter nextOf at h
  split at h
  · next e => exact e.trans (congrArg _ (Option.some.inj h))
  · cases h
  · cases h

/-- The run from C_START meets every premise of the first clause, with RND = 64 at its end. -/
theorem witness_OpenCompressionComputesCompress_run : ∃ s u t : State, s.act = false ∧ exec .cStart s = .next openRun ∧
    (∀ k, k ≤ 66 → ∃ v, Sys2Proof.core.run k openRun = .next v ∧ v.act = true) ∧
    Sys2Proof.core.run 66 openRun = .next u ∧ u.rnd = 64 ∧ exec .cFinish u = .next t := by
  have hopen : ∀ k, k ≤ 66 → ∃ v, openRunAfter k = some v ∧ v.act = true := fun k hk =>
    Option.any_eq_true _ _ |>.mp (List.all_eq_true.mp openRun_stays_open k (List.mem_range.mpr (by omega)))
  obtain ⟨u, hu, hr⟩ := Option.map_eq_some_iff.mp openRun_reaches_64
  exact ⟨{ abc with inputs := openRun.inputs }, u, _, rfl, rfl,
    fun k hk => (hopen k hk).imp fun v hv => ⟨run_of_openRunAfter hv.1, hv.2⟩, run_of_openRunAfter hu, hr, rfl⟩

theorem witness_OpenCompressionComputesCompress : (opened 64).Inv ∧ (opened 64).act = true ∧ (opened 64).rnd = 64 ∧
    ∃ t, exec .cFinish (opened 64) = .next t := ⟨inv_opened 64, rfl, rfl, _, rfl⟩

theorem witness_BlockProcessesOneBlock :
    (twoBlocks.act = false ∧ twoBlocks.padv = true ∧ (1 : BitVec 32).toNat < blockCount twoBlocks.msg.length) ∧
    (opened 0).act = true ∧ (State.reset.act = false ∧ State.reset.padv = false) ∧
    blockCount twoBlocks.msg.length ≤ (2 : BitVec 32).toNat := by decide

theorem witness_HashProcessesEveryBlock : (twoBlocks.act = false ∧ twoBlocks.padv = true) ∧ (opened 0).act = true ∧
    (State.reset.act = false ∧ State.reset.padv = false) := by decide

theorem witness_HashEqualsInitThenBlocks : twoBlocks.act = false ∧ twoBlocks.padv = true ∧
    blockCount twoBlocks.msg.length ≤ 2 ^ 32 := by decide

theorem witness_CommandSequenceHashesTheMessage : State.reset.act = false ∧
    ([0x61, 0x62, 0x63] : List Byte).length ≤ (withCapacity 3 State.reset).config.maxMsgBytes.val ∧
    blockCount ([0x61, 0x62, 0x63] : List Byte).length ≤ 2 ^ 32 := by decide

theorem witness_FailureRecordsTheFirstErrorAlone : abc.err = false ∧ faultedState.err = true := by decide

/-- Two causes at once (BAD_INDEX and BUSY), and none. -/
theorem witness_FirstCauseInOrderIsReported :
    errorOrder.find? (errorCause 0x2100004600000005 (opened 0)) = some .badIndex ∧
    errorOrder.find? (errorCause 0x4100000000000000 abc) = none := by decide

theorem witness_ErrorTableIsExact : ∃ t, opField 0x3100000000000000 = 0x31 ∧ State.reset.err = false ∧
    issue 0x3100000000000000 State.reset = .next t ∧ t.err = true ∧ t.ecode = .notActive ∧
    (opField 0x4200000000000000).toNat ∉ assignedOpcodes := ⟨_, by decide, rfl, rfl, rfl, rfl, by decide⟩

theorem witness_FailingCommandHasNoOtherEffect : ∃ t, (opened 3).err = false ∧
    exec (.wWrite 0 1) (opened 3) = .next t ∧ t.err = true := ⟨_, rfl, rfl, rfl⟩

theorem witness_ErrorRecordDoesNotSteerCommands : ∃ t, exec .hash State.reset = .next t ∧ t.err = true := ⟨_, rfl, rfl⟩

theorem witness_ErrorRecordStaysUntilReset : ∃ t, { faultedState with inputs := [.sample] }.inputs = .sample :: [] ∧
    HostEvent.sample ≠ .reset ∧ faultedState.err = true ∧ step { faultedState with inputs := [.sample] } = .next t :=
  ⟨_, rfl, by decide, rfl, rfl⟩

theorem witness_EveryStepKeepsTheInvariant : abc.Inv ∧ (opened 63).Inv ∧ ∃ t, step (opened 63) = .next t :=
  ⟨inv_abc, inv_opened 63, _, rfl⟩

theorem witness_OpenCompressionIsInterlocked : ∃ t, (opened 63).act = true ∧ exec .cRound (opened 63) = .next t ∧
    Instr.cRound ≠ .cFinish ∧ Instr.cFinish ≠ .cRound := ⟨_, rfl, rfl, by decide, by decide⟩

theorem witness_OnlyTheNamedCommandsWrite : ∃ t, exec .msgClear abc = .next t ∧
    Instr.msgClear.opcode.toNat ∉ [0x10, 0x11, 0x32, 0x33, 0x40, 0x41] := ⟨_, rfl, by decide⟩

theorem witness_ChangedMessageIsDisarmed : ∃ t, step (issuing 0x0100000000000000 abc) = .next t ∧
    t.msg ≠ (issuing 0x0100000000000000 abc).msg := ⟨_, rfl, by decide⟩

end Sys2Proof.Tests
end

section
/-! The word functions of 00_scope.md: shifts and rotation bit by bit (R10, R11), and packing as a number (R12). -/

namespace Sys2Proof.Machine

@[simp] theorem shr_getLsbD (x : Word) (n i : Nat) : (shr x n).getLsbD i = x.getLsbD (n + i) :=
  BitVec.getLsbD_ushiftRight ..

@[simp] theorem shl_getLsbD (x : Word) (n i : Nat) :
    (shl x n).getLsbD i = (decide (i < 32) && !decide (i < n) && x.getLsbD (i - n)) :=
  BitVec.getLsbD_shiftLeft ..

/-- Below the wrap the rotation shows the right shift alone: the left shift fills these positions with zeros. -/
theorem rotr_getLsbD_of_lt (x : Word) {n i : Nat} (h : i + n < 32) :
    (rotr x n).getLsbD i = x.getLsbD (i + n) := by
  have hlow : i < 32 - n := by omega
  rw [rotr, BitVec.getLsbD_or, shr_getLsbD, shl_getLsbD, Nat.add_comm n i]
  simp [hlow]

/-- From the wrap on the right shift shows zeros, and the left shift brings back the low bits. -/
theorem rotr_getLsbD_of_ge (x : Word) {n i : Nat} (hn : n < 32) (hi : i < 32) (h : 32 ≤ i + n) :
    (rotr x n).getLsbD i = x.getLsbD (i + n - 32) := by
  have hshr : x.getLsbD (n + i) = false := BitVec.getLsbD_of_ge x _ (by omega)
  have hhigh : ¬ i < 32 - n := by omega
  have hidx : i - (32 - n) = i + n - 32 := by omega
  rw [rotr, BitVec.getLsbD_or, shr_getLsbD, shl_getLsbD, hshr, hidx]
  simp [hi, hhigh]

/-- Settles O12: bit `i` comes from the right shift when `i + n < 32` and from the left shift otherwise. -/
theorem rotrRotatesRight : Obligations.RotrRotatesRight := by
  intro x n _ hn i hi
  by_cases h : i + n < 32
  · rw [rotr_getLsbD_of_lt x h, Nat.mod_eq_of_lt h]
  · have hmod : (i + n) % 32 = i + n - 32 := by omega
    rw [rotr_getLsbD_of_ge x hn hi (by omega), hmod]

/-- Putting a byte below a bit vector multiplies it by 256 and adds the byte. -/
theorem toNat_append_byte {w : Nat} (x : BitVec w) (b : Byte) : (x ++ b).toNat = x.toNat * 2 ^ 8 + b.toNat := by
  rw [BitVec.toNat_append, ← Nat.shiftLeft_add_eq_or_of_lt b.isLt, Nat.shiftLeft_eq]

/-- The byte at position `k` as a number. -/
theorem toNat_extract_byte {w : Nat} (x : BitVec w) (k : Nat) :
    (x.extractLsb' k 8).toNat = x.toNat / 2 ^ k % 256 := by
  rw [BitVec.extractLsb'_toNat, Nat.shiftRight_eq_div_pow]

theorem be32_toNat (b0 b1 b2 b3 : Byte) :
    (be32 b0 b1 b2 b3).toNat = b0.toNat * 2 ^ 24 + b1.toNat * 2 ^ 16 + b2.toNat * 2 ^ 8 + b3.toNat := by
  simp only [be32, toNat_append_byte]
  omega

theorem bytesBE32_toNat (x : Word) : (bytesBE32 x).map BitVec.toNat =
    [x.toNat / 2 ^ 24 % 256, x.toNat / 2 ^ 16 % 256, x.toNat / 2 ^ 8 % 256, x.toNat / 2 ^ 0 % 256] := by
  simp only [bytesBE32, List.map_cons, List.map_nil, toNat_extract_byte]

theorem bytesBE64_toNat (y : BitVec 64) :
    (bytesBE64 y).map BitVec.toNat = (List.range 8).map fun i => y.toNat / 2 ^ (56 - 8 * i) % 256 := by
  simp only [bytesBE64, List.map_cons, List.map_nil, toNat_extract_byte]
  rfl

/-- The digits of `be32` to base 256 are its bytes, so `bytesBE32` reads them back. -/
theorem bytesBE32_be32 (b0 b1 b2 b3 : Byte) : bytesBE32 (be32 b0 b1 b2 b3) = [b0, b1, b2, b3] := by
  apply List.map_injective_iff.mpr fun _ _ => BitVec.eq_of_toNat_eq
  rw [bytesBE32_toNat, be32_toNat]
  have h0 := b0.isLt
  have h1 := b1.isLt
  have h2 := b2.isLt
  have h3 := b3.isLt
  simp only [List.map_cons, List.map_nil, List.cons.injEq, and_true]
  omega

/-- Settles O16: the packing as a number, and its digits to base 256 read back. -/
theorem bigEndianPackingInverts : Obligations.BigEndianPackingInverts :=
  ⟨fun b0 b1 b2 b3 => ⟨be32_toNat b0 b1 b2 b3, bytesBE32_be32 b0 b1 b2 b3⟩, bytesBE64_toNat⟩

end Sys2Proof.Machine
end

section
/-! What a step can do to the state, said once for every act of the host, and the rules of 10_state.md that follow:
which commands write each piece of state, the error record, the reset values and the invariant. -/

namespace Sys2Proof.Machine

/-! The pieces of state that HASH's block loop and C_ROUND leave alone. -/

@[simp] theorem State.hashMessage_act (s : State) : s.hashMessage.act = s.act := by rw [State.hashMessage_frame]
@[simp] theorem State.hashMessage_rnd (s : State) : s.hashMessage.rnd = s.rnd := by rw [State.hashMessage_frame]
@[simp] theorem State.hashMessage_msg (s : State) : s.hashMessage.msg = s.msg := by rw [State.hashMessage_frame]
@[simp] theorem State.hashMessage_padv (s : State) : s.hashMessage.padv = s.padv := by rw [State.hashMessage_frame]
@[simp] theorem State.runRound_h (s : State) : s.runRound.h = s.h := by rw [State.runRound_frame]
@[simp] theorem State.runRound_w (s : State) : s.runRound.w = s.w := by rw [State.runRound_frame]
@[simp] theorem State.runRound_act (s : State) : s.runRound.act = s.act := by rw [State.runRound_frame]
@[simp] theorem State.runRound_msg (s : State) : s.runRound.msg = s.msg := by rw [State.runRound_frame]
@[simp] theorem State.runRound_padv (s : State) : s.runRound.padv = s.padv := by rw [State.runRound_frame]

/-! Everything a step can do. -/

/-- Every error a command can raise is one of the codes 1..9 (60_exceptions.md R161). -/
theorem checksOf_code_ne_none {i : Instr} {s : State} {code : ErrorCode}
    (h : firstError (checksOf i s) = some code) : code ≠ .none := by
  have hmem := firstError_mem h
  rintro rfl
  cases i <;>
    simp [checksOf, State.checkRoom, State.checkIdle, State.checkPadded, State.checkBlock, State.checkOpen,
      State.checkRoundLeft, State.checkRoundsDone] at hmem

theorem rejectionCode_ne_none (r : Rejection) : rejectionCode r ≠ .none := by cases r <;> decide

/-- A command word raises an error, or has the effect of the command it spells. -/
theorem issue_cases {cmd : CommandWord} {s t : State} (h : issue cmd s = .next t) :
    (∃ code op, code ≠ .none ∧ t = s.raise code op) ∨
      (∃ i, decode cmd = .ok i ∧ firstError (checksOf i s) = none ∧ t = effectOf i s) := by
  unfold issue at h
  split at h
  next i hi =>
    obtain ⟨code, hfail, rfl⟩ | ⟨hpass, rfl⟩ := exec_cases h
    · exact .inl ⟨code, _, checksOf_code_ne_none hfail, rfl⟩
    · exact .inr ⟨i, hi, hpass, rfl⟩
  next r _ => exact .inl ⟨_, _, rejectionCode_ne_none r, (Host.Outcome.next.inj h).symm⟩

/-- Everything the block can do for one act of the host: raise an error, have the effect of the command issued, put an
answer on record, or take its reset values. -/
theorem serve_cases {e : HostEvent} {s t : State} (h : serve e s = .next t) :
    (∃ code op, code ≠ .none ∧ t = s.raise code op) ∨
      (∃ cmd i, e = .command cmd ∧ decode cmd = .ok i ∧ firstError (checksOf i s) = none ∧ t = effectOf i s) ∨
      (∃ reply, t = { s with replies := s.replies ++ [reply] }) ∨
      (e = .reset ∧ t = s.applyReset) := by
  cases e with
  | command cmd =>
    obtain hraise | ⟨i, hi, hpass, rfl⟩ := issue_cases h
    · exact .inl hraise
    · exact .inr (.inl ⟨cmd, i, rfl, hi, hpass, rfl⟩)
  | read a => exact .inr (.inr (.inl ⟨_, (Host.Outcome.next.inj h).symm⟩))
  | sample => exact .inr (.inr (.inl ⟨_, (Host.Outcome.next.inj h).symm⟩))
  | reset => exact .inr (.inr (.inr ⟨rfl, (Host.Outcome.next.inj h).symm⟩))

theorem step_of_inputs {s : State} {e : HostEvent} {rest : List HostEvent} (h : s.inputs = e :: rest) :
    step s = serve e { s with inputs := rest } := by
  simp only [step, h]

theorem step_of_reset {s : State} {rest : List HostEvent} (h : s.inputs = .reset :: rest) :
    step s = .next { s with inputs := rest }.applyReset := by
  rw [step_of_inputs h, serve]

/-- A step waits, or serves the oldest act of the host. -/
theorem step_cases {s t : State} (h : step s = .next t) :
    t = s ∨ ∃ e rest, s.inputs = e :: rest ∧ serve e { s with inputs := rest } = .next t := by
  cases hin : s.inputs with
  | nil => exact .inl (by simpa [step, hin, waitForHost, eq_comm] using h)
  | cons e rest => exact .inr ⟨e, rest, rfl, step_of_inputs hin ▸ h⟩

/-! The invariant. -/

/-- Settles O55: nothing is in the buffer, no compression is open and no error is recorded. -/
theorem resetMeetsTheInvariant : Obligations.ResetMeetsTheInvariant := fun _ => {
  msg_wf := Memory.wf_nil
  len_le := Nat.zero_le _
  closed_rnd := fun _ => rfl
  open_v := nofun
  no_error := fun _ => ⟨rfl, rfl⟩
  error_code := nofun }

/-- The invariant says nothing about the host's acts and the replies. -/
theorem State.Inv.host_fields {s : State} (hs : s.Inv) (inputs : List HostEvent) (replies : List Reply) :
    { s with inputs := inputs, replies := replies }.Inv :=
  ⟨hs.msg_wf, hs.len_le, hs.closed_rnd, hs.open_v, hs.no_error, hs.error_code⟩

theorem State.applyReset_inv (s : State) : s.applyReset.Inv := (resetMeetsTheInvariant s.config).host_fields _ _

theorem State.Inv.raise {s : State} (hs : s.Inv) {code : ErrorCode} (hcode : code ≠ .none) (op : BitVec 8) :
    (s.raise code op).Inv := by
  cases herr : s.err with
  | true => rwa [State.raise_again s code op herr]
  | false =>
    rw [State.raise_first s code op herr]
    exact ⟨hs.msg_wf, hs.len_le, hs.closed_rnd, hs.open_v, nofun, fun _ => hcode⟩

/-- MSG_APPEND finds room, by its check, and every other command but MSG_CLEAR leaves the buffer alone. -/
theorem State.Inv.effectOf_buffer {s : State} (hs : s.Inv) {i : Instr} (hpass : firstError (checksOf i s) = none) :
    (effectOf i s).msg.wf ∧ (effectOf i s).msg.length ≤ s.capacity := by
  have hkept : s.msg.wf ∧ s.msg.length ≤ s.capacity := ⟨hs.msg_wf, hs.len_le⟩
  cases i
  case msgClear => exact ⟨Memory.wf_nil, Nat.zero_le _⟩
  case msgAppend b =>
    have hroom : s.len ≠ s.capacity :=
      of_decide_eq_false (firstError_none_iff.mp hpass s.checkRoom (by simp [checksOf]))
    refine ⟨Memory.append_wf hs.msg_wf b, ?_⟩
    simp only [effectOf, State.appendByte_msg, Memory.append_length]
    exact Nat.lt_of_le_of_ne hs.len_le hroom
  all_goals simpa [effectOf] using hkept

/-- A command that checks for BUSY has its effect with no compression open. -/
theorem act_of_checkIdle_passes {i : Instr} {s : State} (hidle : s.checkIdle ∈ checksOf i s)
    (hpass : firstError (checksOf i s) = none) : s.act = false :=
  firstError_none_iff.mp hpass s.checkIdle hidle

/-- C_START opens with no round done, C_ROUND does the next round, C_FINISH closes; the padder's commands touch none of H, W,
V, ACT and RND, and all others run and end with no compression open. -/
theorem State.Inv.effectOf_compression {s : State} (hs : s.Inv) {i : Instr}
    (hpass : firstError (checksOf i s) = none) :
    ((effectOf i s).act = false → (effectOf i s).rnd = 0) ∧
      ((effectOf i s).act = true → (effectOf i s).v =
        rounds (effectOf i s).w (effectOf i s).h (effectOf i s).rnd.val (Nat.le_of_lt_succ (effectOf i s).rnd.isLt)) := by
  cases i
  case msgClear | msgAppend | pad => exact ⟨hs.closed_rnd, hs.open_v⟩
  case cStart => exact ⟨nofun, fun _ => rfl⟩
  case cRound =>
    have hopen : s.act = true := by
      simpa [State.checkOpen] using firstError_none_iff.mp hpass s.checkOpen (by simp [checksOf])
    have hleft : s.rnd.val ≠ 64 :=
      of_decide_eq_false (firstError_none_iff.mp hpass s.checkRoundLeft (by simp [checksOf]))
    have hrun := State.runRound_of_lt s (by omega)
    simp [effectOf, hrun, hopen, rounds_succ, ← hs.open_v hopen]
  case cFinish => exact ⟨fun _ => rfl, nofun⟩
  all_goals
    have hclosed := act_of_checkIdle_passes (by simp [checksOf]) hpass
    simp [effectOf, hclosed, hs.closed_rnd hclosed]

theorem State.Inv.after_effect {s : State} (hs : s.Inv) {i : Instr} (hpass : firstError (checksOf i s) = none) :
    (effectOf i s).Inv := by
  obtain ⟨herr, hecode, heop, hconfig, -, -⟩ := effectOf_keeps i s
  obtain ⟨hwf, hlen⟩ := hs.effectOf_buffer hpass
  obtain ⟨hclosed, hopen⟩ := hs.effectOf_compression hpass
  refine ⟨hwf, ?_, hclosed, hopen, ?_, ?_⟩
  · rwa [State.len, State.capacity, hconfig]
  · rw [herr, hecode, heop]; exact hs.no_error
  · rw [herr, hecode]; exact hs.error_code

/-- Settles O54, by what a step can do. -/
theorem everyStepKeepsTheInvariant : Obligations.EveryStepKeepsTheInvariant := by
  intro s t hs h
  obtain rfl | ⟨e, rest, -, hserve⟩ := step_cases h
  · exact hs
  · have hs' := hs.host_fields rest s.replies
    obtain ⟨code, op, hcode, rfl⟩ | ⟨_, i, -, -, hpass, rfl⟩ | ⟨reply, rfl⟩ | ⟨-, rfl⟩ := serve_cases hserve
    · exact hs'.raise hcode op
    · exact hs'.after_effect hpass
    · exact hs'.host_fields _ _
    · exact State.applyReset_inv _

/-! The error record. -/

/-- Settles O47, by the two cases of `raise`. -/
theorem failureRecordsTheFirstErrorAlone : Obligations.FailureRecordsTheFirstErrorAlone := fun s code op =>
  ⟨s.raise_first code op, s.raise_again code op⟩

/-- Settles O52: a later error is not recorded, no effect writes the record, and only reset clears it. -/
theorem errorRecordStaysUntilReset : Obligations.ErrorRecordStaysUntilReset := by
  intro s t rest e hin hreset herr h
  rw [step_of_inputs hin] at h
  obtain ⟨code, op, -, rfl⟩ | ⟨_, i, -, -, -, rfl⟩ | ⟨reply, rfl⟩ | ⟨rfl, -⟩ := serve_cases h
  · rw [State.raise_again { s with inputs := rest } code op herr]
    exact ⟨herr, rfl, rfl⟩
  · obtain ⟨herr', hecode, heop, -⟩ := effectOf_keeps i { s with inputs := rest }
    exact ⟨herr'.trans herr, hecode, heop⟩
  · exact ⟨herr, rfl, rfl⟩
  · exact absurd rfl hreset

/-! The writers of each piece of state. -/

/-- The effect of a command leaves alone every piece of state that does not name it as a writer. -/
theorem effectOf_writes (i : Instr) (s : State) :
    (i.opcode.toNat ∉ [0x10, 0x11, 0x32, 0x33, 0x40, 0x41] → (effectOf i s).h = s.h) ∧
    (i.opcode.toNat ∉ [0x20, 0x21, 0x22, 0x40, 0x41] → (effectOf i s).w = s.w) ∧
    (i.opcode.toNat ∉ [0x30, 0x31, 0x33, 0x40, 0x41] → (effectOf i s).v = s.v) ∧
    (i.opcode.toNat ∉ [0x30, 0x32] → (effectOf i s).act = s.act) ∧
    (i.opcode.toNat ∉ [0x30, 0x31, 0x32] → (effectOf i s).rnd = s.rnd) ∧
    (i.opcode.toNat ∉ [0x01, 0x02] → (effectOf i s).msg = s.msg) ∧
    (i.opcode.toNat ∉ [0x01, 0x02, 0x03] → (effectOf i s).padv = s.padv) := by
  cases i <;> simp [effectOf, Instr.opcode]

/-- Settles O57: a command that fails writes the error record alone, and one that passes has its effect. -/
theorem onlyTheNamedCommandsWrite : Obligations.OnlyTheNamedCommandsWrite := by
  intro i s t h
  obtain ⟨code, -, rfl⟩ | ⟨-, rfl⟩ := exec_cases h
  · rw [State.raise_frame]
    simp
  · obtain ⟨hh, hw, hv, hact, hrnd, hmsg, hpadv⟩ := effectOf_writes i s
    obtain ⟨-, -, -, hhost⟩ := effectOf_keeps i s
    exact ⟨hh, hw, hv, hact, hrnd, hmsg, hpadv, hhost⟩

/-- An effect keeps the message or disarms the padded view: the two commands that write MSG clear PADV. -/
theorem effectOf_msg_eq_or_disarmed (i : Instr) (s : State) :
    (effectOf i s).msg = s.msg ∨ (effectOf i s).padv = false := by
  cases i
  case msgClear | msgAppend => exact .inr rfl
  all_goals exact .inl (by simp [effectOf])

/-- Settles O58: errors and replies leave MSG alone, and effects and reset disarm where they change it. -/
theorem changedMessageIsDisarmed : Obligations.ChangedMessageIsDisarmed := by
  intro s t h hmsg
  obtain rfl | ⟨e, rest, -, hserve⟩ := step_cases h
  · exact absurd rfl hmsg
  · obtain ⟨code, op, -, rfl⟩ | ⟨_, i, -, -, -, rfl⟩ | ⟨reply, rfl⟩ | ⟨-, rfl⟩ := serve_cases hserve
    · exact absurd (congrArg State.msg (State.raise_frame _ code op)) hmsg
    · exact (effectOf_msg_eq_or_disarmed i _).resolve_left hmsg
    · exact absurd rfl hmsg
    · rfl

/-! Reset. -/

theorem State.applyReset_status (s : State) : s.applyReset.status = 0 := by
  simp [State.status, ErrorCode.bits, flagWord, shl]

theorem State.applyReset_digest (s : State) :
    s.applyReset.digest = 0x6a09e667bb67ae853c6ef372a54ff53a510e527f9b05688c1f83d9ab5be0cd19 := by
  rw [State.digest, State.applyReset_h]
  decide

/-- Settles O19: the step is `applyReset`, whose fields are the reset values. -/
theorem resetInputGivesTheResetValues : Obligations.ResetInputGivesTheResetValues := by
  intro s rest hin
  have hdigest := State.applyReset_digest { s with inputs := rest }
  have hstatus := State.applyReset_status { s with inputs := rest }
  refine ⟨_, step_of_reset hin, rfl, fun k hk => ?_, fun k hk => ?_, rfl, rfl, rfl, rfl, rfl, rfl, rfl, rfl, hstatus, hdigest,
    rfl, rfl, rfl⟩
  · rw [State.applyReset_w, Vector.getElem_replicate]
  · rw [State.applyReset_v, Vector.getElem_replicate]

end Sys2Proof.Machine
end

section
/-! The STATUS word field by field (10_state.md R28). -/

namespace Sys2Proof.Machine

/-- A field of a status word, shifted to its place. -/
def fieldAt {w : Nat} (x : BitVec w) (k : Nat) : Word := shl (x.setWidth 32) k

/-- A field shows its bits from its place on. -/
@[simp] theorem fieldAt_getElem {w : Nat} (x : BitVec w) (k : Nat) {n : Nat} (hn : n < 32) :
    (fieldAt x k)[n] = (decide (k ≤ n) && x.getLsbD (n - k)) := by
  rw [fieldAt, shl, BitVec.getElem_shiftLeft]
  by_cases hk : k ≤ n <;> simp [hk, Nat.lt_of_not_le]

/-- A field is read back at its place. -/
theorem extract_fieldAt_same {w : Nat} (x : BitVec w) {k : Nat} (h : k + w ≤ 32) :
    (fieldAt x k).extractLsb' k w = x := by
  ext n hn
  have hbit : k + n < 32 := by omega
  rw [BitVec.getElem_extractLsb', BitVec.getLsbD_eq_getElem hbit, fieldAt_getElem]
  simp [hn]

/-- Beside its place a field shows zeros. -/
theorem extract_fieldAt_beside {w : Nat} (x : BitVec w) {k start len : Nat} (h : start + len ≤ 32)
    (hbeside : start + len ≤ k ∨ k + w ≤ start) : (fieldAt x k).extractLsb' start len = 0 := by
  ext n hn
  have hbit : start + n < 32 := by omega
  rw [BitVec.getElem_extractLsb', BitVec.getLsbD_eq_getElem hbit, fieldAt_getElem]
  rcases hbeside with hbelow | habove
  · have hlow : ¬ k ≤ start + n := by omega
    simp [hlow]
  · have hhigh : x.getLsbD (start + n - k) = false := BitVec.getLsbD_of_ge _ _ (by omega)
    simp [hhigh]

theorem flagWord_eq (b : Bool) : flagWord b = (BitVec.ofBool b).setWidth 32 := by cases b <;> rfl

/-- RND is at most 64, so it fits the seven bits STATUS has for it. -/
theorem rnd_ofNat_eq (r : Fin 65) : BitVec.ofNat 32 r.val = (BitVec.ofNat 7 r.val).setWidth 32 :=
  (BitVec.setWidth_ofNat_of_le_of_lt (by decide) (by omega)).symm

/-- STATUS is six fields, each at its place. -/
theorem status_eq_fields (s : State) :
    s.status = fieldAt (BitVec.ofBool s.err) 0 ||| fieldAt (BitVec.ofBool s.act) 1 ||| fieldAt (BitVec.ofBool s.padv) 2
      ||| fieldAt s.ecode.bits 8 ||| fieldAt (BitVec.ofNat 7 s.rnd.val) 16 ||| fieldAt s.eop 24 := by
  have hplace : fieldAt (BitVec.ofBool s.err) 0 = (BitVec.ofBool s.err).setWidth 32 := BitVec.shiftLeft_zero ..
  rw [State.status, rnd_ofNat_eq, flagWord_eq, flagWord_eq, flagWord_eq, hplace]
  rfl

theorem status_flags (s : State) :
    s.status.getLsbD 0 = s.err ∧ s.status.getLsbD 1 = s.act ∧ s.status.getLsbD 2 = s.padv := by
  simp [status_eq_fields]

theorem status_ecode (s : State) : s.status.extractLsb' 8 4 = s.ecode.bits := by
  simp (disch := omega) [status_eq_fields, BitVec.extractLsb'_or, extract_fieldAt_same, extract_fieldAt_beside]

theorem status_rnd (s : State) : (s.status.extractLsb' 16 7).toNat = s.rnd.val := by
  have hfield : s.status.extractLsb' 16 7 = BitVec.ofNat 7 s.rnd.val := by
    simp (disch := omega) [status_eq_fields, BitVec.extractLsb'_or, extract_fieldAt_same, extract_fieldAt_beside]
  rw [hfield, BitVec.toNat_ofNat]
  omega

theorem status_eop (s : State) : s.status.extractLsb' 24 8 = s.eop := by
  simp (disch := omega) [status_eq_fields, BitVec.extractLsb'_or, extract_fieldAt_same, extract_fieldAt_beside]

/-- The reserved bits 7:3, 15:12 and 23 lie beside all six fields. -/
theorem status_reserved (s : State) :
    s.status.extractLsb' 3 5 = 0 ∧ s.status.extractLsb' 12 4 = 0 ∧ s.status.getLsbD 23 = false := by
  refine ⟨?_, ?_, ?_⟩
  · simp (disch := omega) [status_eq_fields, BitVec.extractLsb'_or, extract_fieldAt_beside]
  · simp (disch := omega) [status_eq_fields, BitVec.extractLsb'_or, extract_fieldAt_beside]
  · simp [status_eq_fields]

/-- Settles O24: STATUS is its six fields side by side, and the codes are those of `ErrorCode.bits`. -/
theorem statusWordHasItsFields : Obligations.StatusWordHasItsFields := by
  refine ⟨fun s => ?_, by decide⟩
  obtain ⟨herr, hact, hpadv⟩ := status_flags s
  obtain ⟨hlow, hmid, htop⟩ := status_reserved s
  exact ⟨herr, hact, hpadv, hlow, status_ecode s, hmid, status_rnd s, htop, status_eop s, rfl⟩

end Sys2Proof.Machine
end

section
/-! The digest output word by word and byte by byte (10_state.md R27). -/

namespace Sys2Proof.Machine

/-- H[i] stands at bits 255-32i to 224-32i of the digest output. The widths are kept as sums (no `Nat.reduceAdd`), so that
the library's rules about `++` apply. -/
theorem digest_word (s : State) (i : Nat) (hi : i < 8) : s.digest.extractLsb' (224 - 32 * i) 32 = s.h[i] := by
  change (s.h[0] ++ s.h[1] ++ s.h[2] ++ s.h[3] ++ s.h[4] ++ s.h[5] ++ s.h[6] ++ s.h[7]).extractLsb' _ 32 = _
  interval_cases i <;>
    simp (disch := omega) [-Nat.reduceAdd, BitVec.extractLsb'_append_eq_of_le, BitVec.extractLsb'_append_eq_of_add_le]

/-- Byte `b` of a word, the most significant first. -/
theorem bytesBE32_getElem? (x : Word) {b : Nat} (hb : b < 4) :
    (bytesBE32 x)[b]? = some (x.extractLsb' (24 - 8 * b) 8) := by
  interval_cases b <;> rfl

/-- Byte `4 * i + b` of the words of a list is byte `b` of word `i`. -/
theorem flatMap_bytesBE32_getElem? (ws : List Word) (i : Nat) {b : Nat} (hb : b < 4) :
    (ws.flatMap bytesBE32)[4 * i + b]? = ws[i]?.map fun x => x.extractLsb' (24 - 8 * b) 8 := by
  induction ws generalizing i with
  | nil => rfl
  | cons x ws ih =>
    rw [List.flatMap_cons]
    cases i with
    | zero =>
      rw [List.getElem?_append_left (by simp [bytesBE32]; omega), Nat.mul_zero, Nat.zero_add, bytesBE32_getElem? x hb]
      rfl
    | succ i =>
      have hskip : 4 * (i + 1) + b - (bytesBE32 x).length = 4 * i + b := by simp [bytesBE32]; omega
      rw [List.getElem?_append_right (by simp [bytesBE32]; omega), hskip, ih, List.getElem?_cons_succ]

/-- A byte of a digest word is the byte at the same place of the digest output. -/
theorem digest_word_byte (s : State) {i b : Nat} (hi : i < 8) (hb : b < 4) :
    (s.h[i]).extractLsb' (24 - 8 * b) 8 = s.digest.extractLsb' (248 - 8 * (4 * i + b)) 8 := by
  have hplace (n : Nat) : 224 - 32 * i + (24 - 8 * b + n) = 248 - 8 * (4 * i + b) + n := by omega
  rw [← digest_word s i hi]
  ext n hn
  have hword : 24 - 8 * b + n < 32 := by omega
  simp [hword, hplace]

/-- Settles O23: byte k of the Digest is byte k mod 4 of word k / 4. -/
theorem digestOutputSerialisesH : Obligations.DigestOutputSerialisesH := by
  refine fun s => ⟨digest_word s, by simp [digestBytes_eq, bytesBE32], fun k hk => ?_⟩
  have hword : k / 4 < 8 := by omega
  have hbyte : k % 4 < 4 := by omega
  have hread : s.h.toList[k / 4]? = some s.h[k / 4] := by simp [hword]
  rw [State.digestBytes, ← Nat.div_add_mod k 4, flatMap_bytesBE32_getElem? _ _ hbyte, ← digest_word_byte s hword hbyte]
  simp [hread]

end Sys2Proof.Machine
end

section
/-! An encoded command comes back from the decoder (30_encoding.md R61), so issuing its word runs it. -/

namespace Sys2Proof

@[simp] theorem opField_encode (i : Instr) : opField (encode i) = i.opcode := opField_assembleFields ..

@[simp] theorem idxField_encode (i : Instr) : idxField (encode i) = i.idxOperand := idxField_assembleFields ..

@[simp] theorem dataField_encode (i : Instr) : dataField (encode i) = i.dataOperand := dataField_assembleFields ..

/-- The opcode selects the command's own arm of the decoder, whose check finds the fields without an operand zero. -/
theorem decode_encode (i : Instr) : decode (encode i) = .ok i := by
  unfold decode
  rw [opField_encode]
  cases i
  case hWrite | wWrite => simp [Instr.opcode, Instr.idxOperand, Instr.dataOperand]
  case msgAppend b => simp [Instr.opcode, byteOperandOnly, Instr.idxOperand, Instr.dataOperand]
  case wLoad | block => simp [Instr.opcode, idxIsZero, Instr.idxOperand, Instr.dataOperand]
  all_goals simp [Instr.opcode, operandsAreZero, Instr.idxOperand, Instr.dataOperand]

namespace Machine

theorem issue_encode (i : Instr) (s : State) : issue (encode i) s = exec i s := by
  rw [issue, decode_encode]

end Machine

end Sys2Proof
end

section
/-! The ports one act at a time: issued words run in order (20_memory.md R52), and reads and samples answer without
changing the block (R48, 10_state.md R27). -/

namespace Sys2Proof.Machine

/-! No command looks at what the host will do next. -/

theorem checksOf_with_inputs (i : Instr) (s : State) (l : List HostEvent) :
    checksOf i { s with inputs := l } = checksOf i s := by
  cases i <;> rfl

theorem State.raise_with_inputs (s : State) (code : ErrorCode) (op : BitVec 8) (l : List HostEvent) :
    { s with inputs := l }.raise code op = { s.raise code op with inputs := l } := by
  unfold State.raise
  split <;> rfl

theorem State.processBlocks_with_inputs (n : Nat) (s : State) (l : List HostEvent) :
    { s with inputs := l }.processBlocks n = { s.processBlocks n with inputs := l } := by
  induction n with
  | zero => rfl
  | succ n ih => rw [State.processBlocks_succ, ih]; rfl

theorem State.runRound_with_inputs (s : State) (l : List HostEvent) :
    { s with inputs := l }.runRound = { s.runRound with inputs := l } := by
  unfold State.runRound
  split <;> rfl

theorem effectOf_with_inputs (i : Instr) (s : State) (l : List HostEvent) :
    effectOf i { s with inputs := l } = { effectOf i s with inputs := l } := by
  cases i
  case cRound => exact s.runRound_with_inputs l
  case hash => exact s.loadIV.processBlocks_with_inputs s.nb l
  all_goals rfl

/-- A command answers the same next state whatever the host will do, up to that list, which it keeps. -/
theorem exec_with_inputs (i : Instr) (s : State) :
    ∃ t : State, ∀ l, exec i { s with inputs := l } = .next { t with inputs := l } := by
  cases hchecks : firstError (checksOf i s) with
  | some code =>
    refine ⟨s.raise code i.opcode, fun l => ?_⟩
    rw [← checksOf_with_inputs i s l] at hchecks
    rw [exec_of_fail hchecks, State.raise_with_inputs]
  | none =>
    refine ⟨effectOf i s, fun l => ?_⟩
    rw [← checksOf_with_inputs i s l] at hchecks
    rw [exec_of_pass hchecks, effectOf_with_inputs]

/-! Issued words. -/

/-- With an encoded command as the oldest input, a step is that command's execution. -/
theorem step_of_encode {s : State} {i : Instr} {rest : List HostEvent} (h : s.inputs = .command (encode i) :: rest) :
    step s = exec i { s with inputs := rest } := by
  rw [step_of_inputs h, serve, issue_encode]

theorem run_succ_of_step {M : Host.Core} {s t : M.State} (h : M.step s = .next t) (n : Nat) :
    M.run (n + 1) s = M.run n t := by
  rw [Host.Core.run, h]

theorem execAll_cons_of_exec {i : Instr} {s t : State} (h : exec i s = .next t) (is : List Instr) :
    execAll (i :: is) s = execAll is t := by
  rw [execAll, h]

/-- Settles O9, by induction on the commands: a step runs the first one, and what it leaves does not depend on the words
still waiting. -/
theorem issuedWordsRunInOrder : Obligations.IssuedWordsRunInOrder := by
  intro is
  induction is with
  | nil =>
    intro s hin
    rw [List.map_nil] at hin
    rw [← hin]
    rfl
  | cons i is ih =>
    intro s hin
    obtain ⟨t, ht⟩ := exec_with_inputs i s
    have hstep := (step_of_encode hin).trans (ht _)
    rw [execAll_cons_of_exec (ht [])]
    exact (run_succ_of_step (M := Sys2Proof.core) hstep is.length).trans (ih _ rfl)

/-! Reads and samples. -/

theorem State.readPort_with_inputs (s : State) (l : List HostEvent) (a : BitVec 8) :
    { s with inputs := l }.readPort a = s.readPort a := rfl

theorem State.digest_with_inputs (s : State) (l : List HostEvent) : { s with inputs := l }.digest = s.digest := rfl

/-- Settles O21: the act is taken off the inputs, which no answer depends on, and the answer goes on record. -/
theorem readsChangeNoState : Obligations.ReadsChangeNoState := by
  refine fun s rest a => ⟨fun hread => ?_, fun hsample => ?_⟩
  · rw [step_of_inputs hread, serve, State.answerRead, State.readPort_with_inputs]
  · rw [step_of_inputs hsample, serve, State.answerSample, State.digest_with_inputs]

end Sys2Proof.Machine
end

section
/-! The read port's map (20_memory.md R49), completing Laws/Ports.lean with STATUS and the halves of L and NB. -/

namespace Sys2Proof.Machine

theorem portWord_status (s : State) : s.portWord 0x10 = s.status := rfl

theorem portWord_len_low (s : State) : (s.portWord 0x11).toNat = s.msg.length % 2 ^ 32 := BitVec.toNat_ofNat ..

theorem portWord_len_high (s : State) : (s.portWord 0x12).toNat = s.msg.length / 2 ^ 32 % 2 ^ 32 :=
  BitVec.toNat_ofNat ..

theorem portWord_nb_low (s : State) :
    (s.portWord 0x13).toNat = if s.padv then (s.msg.length + 72) / 64 % 2 ^ 32 else 0 := by
  refine (BitVec.toNat_ofNat s.nb 32).trans ?_
  unfold State.nb
  split <;> rfl

theorem portWord_nb_high (s : State) :
    (s.portWord 0x14).toNat = if s.padv then (s.msg.length + 72) / 64 / 2 ^ 32 % 2 ^ 32 else 0 := by
  refine (BitVec.toNat_ofNat (s.nb / 2 ^ 32) 32).trans ?_
  unfold State.nb
  split <;> rfl

theorem State.readPort_of_toNat (s : State) {a : BitVec 8} {n : Nat} (h : a.toNat = n) : s.readPort a = s.portWord n :=
  congrArg s.portWord h

/-- Settles O22, range by range of the map. -/
theorem readPortFollowsItsMap : Obligations.ReadPortFollowsItsMap := by
  intro s a
  refine ⟨?h, ?v, ?status, ?lenLow, ?lenHigh, ?nbLow, ?nbHigh, ?reservedLow, ?w, ?k, ?iv, ?reservedHigh⟩
  case h => exact fun i hi ha => (s.readPort_of_toNat ha).trans (portWord_h s i hi)
  case v => exact fun i hi ha => (s.readPort_of_toNat ha).trans (portWord_v s i hi)
  case status => rintro rfl; exact portWord_status s
  case lenLow => rintro rfl; exact portWord_len_low s
  case lenHigh => rintro rfl; exact portWord_len_high s
  case nbLow => rintro rfl; exact portWord_nb_low s
  case nbHigh => rintro rfl; exact portWord_nb_high s
  case reservedLow => exact fun hlow hhigh => portWord_reserved_low s a.toNat hlow (Nat.lt_succ_of_le hhigh)
  case w => exact fun t ht ha => (s.readPort_of_toNat ha).trans (portWord_w s t ht)
  case k => exact fun r ha => (s.readPort_of_toNat ha).trans (portWord_k s r)
  case iv => exact fun i hi ha => (s.readPort_of_toNat ha).trans (portWord_iv s i hi)
  case reservedHigh => exact portWord_reserved_high s a.toNat

end Sys2Proof.Machine
end

section
/-! Decoding and encoding are inverse to each other (30_encoding.md R60, R61, R65). -/

namespace Sys2Proof

/-- The decoder takes every operand from its field, and every other field is zero (30_encoding.md R61, R62). -/
theorem fields_of_decode {cmd : CommandWord} {i : Instr} (h : decode cmd = .ok i) :
    opField cmd = i.opcode ∧ idxField cmd = i.idxOperand ∧ dataField cmd = i.dataOperand := by
  unfold decode at h
  split at h
  case h_2 hop => -- MSG_APPEND
    obtain ⟨hzero, rfl⟩ := requireZero_ok.mp h
    obtain ⟨hidx, hdata⟩ := by simpa [byteOperandOnly] using hzero
    exact ⟨opField_of_toNat hop, hidx, (byte_setWidth_of_high_zero _ hdata).symm⟩
  case h_5 hop | h_7 hop => -- an index and a word
    cases h
    exact ⟨opField_of_toNat hop, rfl, rfl⟩
  case h_6 hop | h_13 hop => -- a block index
    obtain ⟨hzero, rfl⟩ := requireZero_ok.mp h
    exact ⟨opField_of_toNat hop, idxIsZero_iff.mp hzero, rfl⟩
  case h_15 => cases h -- not assigned
  all_goals -- no operands
    next hop =>
      obtain ⟨hzero, rfl⟩ := requireZero_ok.mp h
      exact ⟨opField_of_toNat hop, operandsAreZero_iff.mp hzero⟩

theorem encode_eq_iff {cmd : CommandWord} {i : Instr} :
    encode i = cmd ↔ opField cmd = i.opcode ∧ idxField cmd = i.idxOperand ∧ dataField cmd = i.dataOperand := by
  rw [eq_comm, ← assembleFields_inj, assembleFields_of_fields, encode]

theorem encode_of_decode {cmd : CommandWord} {i : Instr} (h : decode cmd = .ok i) : encode i = cmd :=
  encode_eq_iff.mpr (fields_of_decode h)

theorem decode_eq_ok_iff {cmd : CommandWord} {i : Instr} : decode cmd = .ok i ↔ encode i = cmd :=
  ⟨encode_of_decode, fun h => h ▸ decode_encode i⟩

/-- Settles O1, command by command in `decode_encode`. -/
theorem decodeOfEncodeIsTheCommand : Obligations.DecodeOfEncodeIsTheCommand := decode_encode

/-- Settles O2: the fields of the word are those of the command, and they are the whole word. -/
theorem encodeOfDecodeIsTheWord : Obligations.EncodeOfDecodeIsTheWord := fun _ _ => encode_of_decode

/-- Settles O4, from the fields of an assembled word. -/
theorem encodedFieldsAreTheOperands : Obligations.EncodedFieldsAreTheOperands :=
  fun i => ⟨opField_encode i, idxField_encode i, dataField_encode i⟩

/-- Settles O5: the accepted words are encodings, and the rejected ones are evaluated. -/
theorem writtenOutWordsDecode : Obligations.WrittenOutWordsDecode :=
  ⟨decode_encode .msgClear, decode_encode (.msgAppend 0x61), decode_encode .pad, decode_encode .hInit,
    decode_encode (.hWrite 7 0xdeadbeef), decode_encode (.wLoad 1), decode_encode (.wWrite 15 0x18),
    decode_encode .cRound, decode_encode (.block 1), decode_encode .hash, by decide, by decide⟩

end Sys2Proof
end

section
/-! What issuing a word does (30_encoding.md R65), and words that spell no command (R62, R64). -/

namespace Sys2Proof.Machine

theorem issue_of_decode_ok {cmd : CommandWord} {i : Instr} (h : decode cmd = .ok i) (s : State) :
    issue cmd s = exec i s := by
  rw [issue, h]

theorem issue_of_decode_error {cmd : CommandWord} {r : Rejection} (h : decode cmd = .error r) (s : State) :
    issue cmd s = .next (s.raise (rejectionCode r) (opField cmd)) := by
  rw [issue, h]

/-- Settles O8: a step serves the oldest act of the host, which is the word. -/
theorem stepRunsTheDecodedCommand : Obligations.StepRunsTheDecodedCommand := by
  intro s cmd rest i hinputs
  have hstep : step s = issue cmd { s with inputs := rest } := step_of_inputs hinputs
  exact ⟨hstep, fun hdecode => hstep.trans (issue_of_decode_ok hdecode _)⟩

/-- Each arm of the decoder but the last is that of an assigned opcode, and answers the command or RESERVED_FIELD. -/
theorem decode_illegalOpcode_iff {cmd : CommandWord} :
    decode cmd = .error .illegalOpcode ↔ (opField cmd).toNat ∉ assignedOpcodes := by
  unfold decode
  split
  case h_15 => simp_all [assignedOpcodes]
  all_goals next hop => simp [hop, assignedOpcodes]

theorem decode_error_of_assigned {cmd : CommandWord} {r : Rejection} (hop : (opField cmd).toNat ∈ assignedOpcodes)
    (h : decode cmd = .error r) : r = .reservedField := by
  cases r with
  | illegalOpcode => exact absurd hop (decode_illegalOpcode_iff.mp h)
  | reservedField => rfl

/-- Settles O6: the decoder rejects the word before any other field is looked at. -/
theorem unassignedOpcodeFailsAsIllegal : Obligations.UnassignedOpcodeFailsAsIllegal :=
  ⟨fun s _ hop => issue_of_decode_error (decode_illegalOpcode_iff.mpr hop) s, by decide +kernel⟩

/-! No command sets a field that its opcode says must be zero (R61). -/

theorem idxOperand_eq_zero_of_reserved {i : Instr} (h : i.opcode.toNat ∈ idxReserved) : i.idxOperand = 0 := by
  cases i
  case hWrite | wWrite => simp [Instr.opcode, idxReserved] at h
  all_goals rfl

theorem dataOperand_eq_zero_of_reserved {i : Instr} (h : i.opcode.toNat ∈ dataReserved) : i.dataOperand = 0 := by
  cases i
  case msgAppend | hWrite | wLoad | wWrite | block => simp [Instr.opcode, dataReserved] at h
  all_goals rfl

theorem dataOperand_le_of_msgAppend {i : Instr} (h : i.opcode = 0x02) : i.dataOperand.toNat ≤ 255 := by
  cases i
  case msgAppend b => exact (high_bits_zero_iff _).mp (byte_setWidth_high b)
  all_goals simp [Instr.opcode] at h

/-- A field that R61 says must be zero and is not. -/
def reservedFieldSet (cmd : CommandWord) : Prop :=
  (opField cmd).toNat ∈ idxReserved ∧ idxField cmd ≠ 0 ∨
    (opField cmd).toNat ∈ dataReserved ∧ dataField cmd ≠ 0 ∨
    opField cmd = 0x02 ∧ 255 < (dataField cmd).toNat

theorem assigned_of_reservedFieldSet {cmd : CommandWord} (h : reservedFieldSet cmd) :
    (opField cmd).toNat ∈ assignedOpcodes := by
  obtain ⟨hop, -⟩ | ⟨hop, -⟩ | ⟨hop, -⟩ := h
  · exact (by decide : idxReserved ⊆ assignedOpcodes) hop
  · exact (by decide : dataReserved ⊆ assignedOpcodes) hop
  · rw [hop]; decide

theorem decode_ne_ok_of_reservedFieldSet {cmd : CommandWord} (h : reservedFieldSet cmd) (i : Instr) :
    decode cmd ≠ .ok i := by
  intro hdecode
  obtain ⟨hopcode, hidx, hdata⟩ := fields_of_decode hdecode
  rw [reservedFieldSet, hopcode, hidx, hdata] at h
  obtain ⟨hop, hset⟩ | ⟨hop, hset⟩ | ⟨hop, hset⟩ := h
  · exact hset (idxOperand_eq_zero_of_reserved hop)
  · exact hset (dataOperand_eq_zero_of_reserved hop)
  · exact absurd (dataOperand_le_of_msgAppend hop) (Nat.not_le_of_lt hset)

theorem decode_of_reservedFieldSet {cmd : CommandWord} (h : reservedFieldSet cmd) :
    decode cmd = .error .reservedField := by
  cases hdecode : decode cmd with
  | ok i => exact absurd hdecode (decode_ne_ok_of_reservedFieldSet h i)
  | error r => rw [decode_error_of_assigned (assigned_of_reservedFieldSet h) hdecode]

/-- Settles O7: the opcode is assigned, so the word is no illegal one, and no command's encoding has the field set. -/
theorem nonzeroReservedFieldFails : Obligations.NonzeroReservedFieldFails :=
  fun s _ h => issue_of_decode_error (decode_of_reservedFieldSet h) s

end Sys2Proof.Machine
end

section
/-! A word spells a command exactly when it matches the command's row of the opcode table (30_encoding.md R63). -/

namespace Sys2Proof

/-- Every mask covers the op field, and every pattern is 0 in the other fields: a match fixes the opcode and clears the
masked bits of the index and the data. -/
theorem fields_of_match {cmd mask pattern : CommandWord} (n : BitVec 24) (k : BitVec 32) (op : BitVec 8)
    (hmask : mask = assembleFields 0xff n k) (hpattern : pattern = assembleFields op 0 0) (h : cmd &&& mask = pattern) :
    opField cmd = op ∧ idxField cmd &&& n = 0 ∧ dataField cmd &&& k = 0 := by
  rw [hmask, hpattern, ← assembleFields_of_fields cmd, assembleFields_and, assembleFields_inj] at h
  obtain ⟨hop, hidx, hdata⟩ := h
  exact ⟨BitVec.and_allOnes.symm.trans hop, hidx, hdata⟩

theorem high_bits_zero_of_and_mask {d : BitVec 32} (h : d &&& 0xffffff00 = 0) : d.extractLsb' 8 24 = 0 := by
  have hmask : ∀ i < 24, (0xffffff00 : BitVec 32).getLsbD (8 + i) = true := by decide
  apply BitVec.eq_of_getLsbD_eq
  intro i hi
  have hbit := congrArg (·.getLsbD (8 + i)) h
  rw [BitVec.getLsbD_and, hmask i hi, Bool.and_true] at hbit
  simpa [hi] using hbit

/-- A full mask leaves only the command's own word. -/
theorem encode_of_match_all {cmd pattern : CommandWord} {i : Instr} (hi : encode i = pattern)
    (h : cmd &&& 0xffffffffffffffff = pattern) : encode i = cmd :=
  hi.trans (h.symm.trans BitVec.and_allOnes)

/-- MSG_APPEND's mask leaves the byte free. -/
theorem encode_msgAppend_of_match {cmd : CommandWord} (h : cmd &&& 0xffffffffffffff00 = 0x0200000000000000) :
    encode (.msgAppend ((dataField cmd).extractLsb' 0 8)) = cmd := by
  obtain ⟨hop, hidx, hdata⟩ := fields_of_match 0xffffff 0xffffff00 0x02 (by decide) (by decide) h
  exact encode_eq_iff.mpr ⟨hop, BitVec.and_allOnes.symm.trans hidx,
    (byte_setWidth_of_high_zero _ (high_bits_zero_of_and_mask hdata)).symm⟩

/-- A mask of the op and idx fields leaves the block index free. -/
theorem encode_of_match_blockIndex {cmd pattern : CommandWord} {i : Instr} (op : BitVec 8)
    (hpattern : pattern = assembleFields op 0 0) (h : cmd &&& 0xffffffff00000000 = pattern) (hop : op = i.opcode)
    (hidx : i.idxOperand = 0) (hdata : i.dataOperand = dataField cmd) : encode i = cmd := by
  obtain ⟨hfield, hzero, -⟩ := fields_of_match 0xffffff 0 op (by decide) hpattern h
  exact encode_eq_iff.mpr ⟨hfield.trans hop, (BitVec.and_allOnes.symm.trans hzero).trans hidx.symm, hdata.symm⟩

/-- A mask of the op field alone leaves the index and the word free. -/
theorem encode_of_match_indexAndWord {cmd pattern : CommandWord} {i : Instr} (op : BitVec 8)
    (hpattern : pattern = assembleFields op 0 0) (h : cmd &&& 0xff00000000000000 = pattern) (hop : op = i.opcode)
    (hidx : i.idxOperand = idxField cmd) (hdata : i.dataOperand = dataField cmd) : encode i = cmd := by
  obtain ⟨hfield, -, -⟩ := fields_of_match 0 0 op (by decide) hpattern h
  exact encode_eq_iff.mpr ⟨hfield.trans hop, hidx.symm, hdata.symm⟩

/-- Row by row, by the fields its mask leaves free. -/
theorem exists_encode_of_match {cmd : CommandWord} {row : OpcodeRow} (hrow : row ∈ opcodeTable)
    (h : cmd &&& row.mask = row.pattern) : ∃ i, encode i = cmd ∧ i.mnemonic = row.mnemonic := by
  simp only [opcodeTable, List.cons_append, List.nil_append, List.mem_cons, List.not_mem_nil, or_false] at hrow
  obtain rfl | rfl | rfl | rfl | rfl | rfl | rfl | rfl | rfl | rfl | rfl | rfl | rfl | rfl := hrow
  · exact ⟨.msgClear, encode_of_match_all (by decide) h, rfl⟩
  · exact ⟨_, encode_msgAppend_of_match h, rfl⟩
  · exact ⟨.pad, encode_of_match_all (by decide) h, rfl⟩
  · exact ⟨.hInit, encode_of_match_all (by decide) h, rfl⟩
  · exact ⟨.hWrite (idxField cmd) (dataField cmd), encode_of_match_indexAndWord 0x11 (by decide) h rfl rfl rfl, rfl⟩
  · exact ⟨.wLoad (dataField cmd), encode_of_match_blockIndex 0x20 (by decide) h rfl rfl rfl, rfl⟩
  · exact ⟨.wWrite (idxField cmd) (dataField cmd), encode_of_match_indexAndWord 0x21 (by decide) h rfl rfl rfl, rfl⟩
  · exact ⟨.wExpand, encode_of_match_all (by decide) h, rfl⟩
  · exact ⟨.cStart, encode_of_match_all (by decide) h, rfl⟩
  · exact ⟨.cRound, encode_of_match_all (by decide) h, rfl⟩
  · exact ⟨.cFinish, encode_of_match_all (by decide) h, rfl⟩
  · exact ⟨.compress, encode_of_match_all (by decide) h, rfl⟩
  · exact ⟨.block (dataField cmd), encode_of_match_blockIndex 0x40 (by decide) h rfl rfl rfl, rfl⟩
  · exact ⟨.hash, encode_of_match_all (by decide) h, rfl⟩

theorem Laws.matchesTable : ∀ i : Instr, MatchesTable.Statement i
  | .msgClear => MatchesTable.msgClear
  | .msgAppend b => MatchesTable.msgAppend b
  | .pad => MatchesTable.pad
  | .hInit => MatchesTable.hInit
  | .hWrite i v => MatchesTable.hWrite i v
  | .wLoad j => MatchesTable.wLoad j
  | .wWrite t v => MatchesTable.wWrite t v
  | .wExpand => MatchesTable.wExpand
  | .cStart => MatchesTable.cStart
  | .cRound => MatchesTable.cRound
  | .cFinish => MatchesTable.cFinish
  | .compress => MatchesTable.compress
  | .block j => MatchesTable.block j
  | .hash => MatchesTable.hash

theorem opcodeTable_mnemonic_nodup : (opcodeTable.map OpcodeRow.mnemonic).Nodup := by decide

/-- The row of the command's mnemonic is the only one of this name, so the encoding matches it. -/
theorem encode_matches_row {i : Instr} {row : OpcodeRow} (hrow : row ∈ opcodeTable) (h : i.mnemonic = row.mnemonic) :
    encode i &&& row.mask = row.pattern := by
  obtain ⟨row', hrow', hname, hmatch⟩ := Laws.matchesTable i
  rwa [List.inj_on_of_nodup_map opcodeTable_mnemonic_nodup hrow' hrow (hname.trans h)] at hmatch

/-- Settles O3: the word that decodes to a command is its encoding, and a row matches the encodings of its command. -/
theorem wordSpellsCommandByMatchAndMask : Obligations.WordSpellsCommandByMatchAndMask := by
  intro cmd row hrow
  simp only [decode_eq_ok_iff]
  constructor
  · exact exists_encode_of_match hrow
  · rintro ⟨i, rfl, hname⟩
    exact encode_matches_row hrow hname

end Sys2Proof
end

section
/-! Which operand lists the assembler accepts for a command (30_encoding.md R66) and for a pseudo-command (R67). -/

namespace Sys2Proof.Machine.Assembler

/-- A number is accepted below `2 ^ w` exactly when it is the value of a `w`-bit operand. -/
theorem below_eq_some_iff {w n : Nat} {f : BitVec w → Instr} {i : Instr} :
    below (2 ^ w) n (f (BitVec.ofNat w n)) = some i ↔ ∃ x : BitVec w, n = x.toNat ∧ i = f x := by
  simp only [below, Option.ite_none_right_eq_some, Option.some.injEq]
  constructor
  · rintro ⟨hlt, rfl⟩
    exact ⟨BitVec.ofNat w n, (Nat.mod_eq_of_lt hlt).symm, rfl⟩
  · rintro ⟨x, rfl, rfl⟩
    exact ⟨x.isLt, by simp⟩

/-- A register or schedule index is the value of its 24-bit field. -/
theorem index_toNat {k : Nat} (h : k < 64) : (BitVec.ofNat 24 k).toNat = k := Nat.mod_eq_of_lt (by omega)

/-- Form by form: the operands are in range, so they are those of the command. -/
theorem form_of_command {mnemonic : String} {args : List Nat} {i : Instr} (h : command mnemonic args = some i) :
    i.wellFormed = true ∧ mnemonic = i.mnemonic ∧ args = writtenOperands i := by
  unfold command at h
  split at h
  case h_2 | h_6 | h_13 => -- one operand
    obtain ⟨x, rfl, rfl⟩ := below_eq_some_iff.mp h
    exact ⟨rfl, rfl, rfl⟩
  case h_5 | h_7 => -- an index and a word
    obtain ⟨hindex, hword⟩ := Option.ite_none_right_eq_some.mp h
    obtain ⟨x, rfl, rfl⟩ := below_eq_some_iff.mp hword
    have hfield := index_toNat (Nat.lt_of_lt_of_le hindex (by decide))
    exact ⟨decide_eq_true (by rw [hfield]; omega), rfl, by rw [writtenOperands, hfield]⟩
  case h_15 => cases h -- no form
  all_goals -- no operands
    cases h
    exact ⟨rfl, rfl, rfl⟩

theorem command_writtenOperands {i : Instr} (h : i.wellFormed = true) :
    command i.mnemonic (writtenOperands i) = some i := by
  cases i
  case msgAppend | wLoad | block => exact below_eq_some_iff.mpr ⟨_, rfl, rfl⟩
  case hWrite i v | wWrite i v =>
    have hindex := Nat.lt_succ_of_le (of_decide_eq_true h)
    exact Option.ite_none_right_eq_some.mpr ⟨hindex, below_eq_some_iff.mpr ⟨v, rfl, by simp⟩⟩
  all_goals rfl

/-- Settles O10: a command is accepted written with its own operands, and in no other form. -/
theorem assemblerAcceptsExactlyTheForms : Obligations.AssemblerAcceptsExactlyTheForms := by
  intro mnemonic args i
  constructor
  · exact form_of_command
  · rintro ⟨hwf, rfl, rfl⟩
    exact command_writtenOperands hwf

/-! Pseudo-commands. -/

/-- An expansion of operands in range, which are taken as values of their width. -/
theorem values_map_eq_some {bits : Nat} {args : List Nat} {f : List (BitVec bits) → List Instr} {is : List Instr} :
    (values bits args).map f = some is ↔ (∀ n ∈ args, n < 2 ^ bits) ∧ is = f (args.map (BitVec.ofNat bits)) := by
  simp [values, eq_comm (a := is)]

/-- The writes count the places of the list from `k` on. -/
theorem writesFrom_eq_mapIdx (write : BitVec 24 → Word → Instr) (k : Nat) (args : List Nat) :
    writesFrom write k (args.map (BitVec.ofNat 32)) =
      args.mapIdx fun i n => write (BitVec.ofNat 24 (k + i)) (BitVec.ofNat 32 n) := by
  induction args generalizing k with
  | nil => rfl
  | cons n rest ih => simp [writesFrom, ih, List.mapIdx_cons, Nat.add_assoc, Nat.add_comm 1]

theorem pseudo_msgBytes {args : List Nat} {is : List Instr} : pseudo "MSG_BYTES" args = some is ↔
    args ≠ [] ∧ (∀ b ∈ args, b < 2 ^ 8) ∧ is = args.map fun b => .msgAppend (BitVec.ofNat 8 b) := by
  simp only [pseudo, Option.ite_none_left_eq_some, List.isEmpty_iff, values_map_eq_some, msgBytes, List.map_map,
    Function.comp_def, ne_eq]

theorem pseudo_loadState {args : List Nat} {is : List Instr} : pseudo "LOAD_STATE" args = some is ↔
    args.length = 8 ∧ (∀ v ∈ args, v < 2 ^ 32) ∧
      is = args.mapIdx fun i v => .hWrite (BitVec.ofNat 24 i) (BitVec.ofNat 32 v) := by
  simp only [pseudo, Option.ite_none_right_eq_some, values_map_eq_some, writesFrom_eq_mapIdx, Nat.zero_add]

theorem pseudo_loadSched {args : List Nat} {is : List Instr} : pseudo "LOAD_SCHED" args = some is ↔
    args.length = 16 ∧ (∀ v ∈ args, v < 2 ^ 32) ∧
      is = args.mapIdx fun t v => .wWrite (BitVec.ofNat 24 t) (BitVec.ofNat 32 v) := by
  simp only [pseudo, Option.ite_none_right_eq_some, values_map_eq_some, writesFrom_eq_mapIdx, Nat.zero_add]

theorem pseudo_rounds {args : List Nat} {is : List Instr} : pseudo "ROUNDS" args = some is ↔
    ∃ n, args = [n] ∧ 1 ≤ n ∧ n ≤ 64 ∧ is = List.replicate n .cRound := by
  simp only [pseudo]
  split
  next n => simp [rounds, eq_comm (a := is), and_assoc]
  next hform => exact ⟨nofun, fun ⟨n, hargs, _⟩ => absurd hargs (hform n)⟩

theorem mnemonic_of_pseudo {mnemonic : String} {args : List Nat} {is : List Instr}
    (h : pseudo mnemonic args = some is) :
    mnemonic = "MSG_BYTES" ∨ mnemonic = "LOAD_STATE" ∨ mnemonic = "LOAD_SCHED" ∨ mnemonic = "ROUNDS" := by
  unfold pseudo at h
  split at h
  case h_5 => cases h
  all_goals simp

/-- Settles O11, mnemonic by mnemonic. -/
theorem pseudoCommandsExpandExactly : Obligations.PseudoCommandsExpandExactly := by
  intro mnemonic args is
  constructor
  · intro h
    obtain rfl | rfl | rfl | rfl := mnemonic_of_pseudo h
    · exact .inl ⟨rfl, pseudo_msgBytes.mp h⟩
    · exact .inr (.inl ⟨rfl, pseudo_loadState.mp h⟩)
    · exact .inr (.inr (.inl ⟨rfl, pseudo_loadSched.mp h⟩))
    · exact .inr (.inr (.inr ⟨rfl, pseudo_rounds.mp h⟩))
  · rintro (⟨rfl, h⟩ | ⟨rfl, h⟩ | ⟨rfl, h⟩ | ⟨rfl, h⟩)
    · exact pseudo_msgBytes.mpr h
    · exact pseudo_loadState.mpr h
    · exact pseudo_loadSched.mpr h
    · exact pseudo_rounds.mpr h

end Sys2Proof.Machine.Assembler
end

section
/-! What a word with an opcode whose fields are in part reserved does (30_encoding.md R61, R62). -/

namespace Sys2Proof.Machine

/-- A condition on the fields under which the word is the command's encoding, and without which a reserved field is set. -/
theorem issue_eq_ite {cmd : CommandWord} {i : Instr} {fieldsFit : Prop} [Decidable fieldsFit] (s : State)
    (hfit : fieldsFit → encode i = cmd) (hset : ¬ fieldsFit → reservedFieldSet cmd) :
    issue cmd s = if fieldsFit then exec i s else .next (s.raise .reservedField (opField cmd)) := by
  split
  next h => exact issue_of_decode_ok (decode_eq_ok_iff.mpr (hfit h)) s
  next h => exact issue_of_decode_error (decode_of_reservedFieldSet (hset h)) s

/-- A command without operands has 0 in both fields, and both are reserved. -/
theorem takesNoOperands_of_dataReserved {i : Instr} (hdata : i.opcode.toNat ∈ dataReserved) :
    takesNoOperands i.opcode i := by
  intro cmd s hop
  have hidx : i.opcode.toNat ∈ idxReserved := (by decide : dataReserved ⊆ idxReserved) hdata
  rw [← hop]
  refine issue_eq_ite s (fun hfit => ?_) fun hnot => ?_
  · rw [encode_eq_iff, idxOperand_eq_zero_of_reserved hidx, dataOperand_eq_zero_of_reserved hdata]
    exact ⟨hop, hfit⟩
  · obtain hidxSet | hdataSet := not_and_or.mp hnot
    · exact .inl ⟨hop ▸ hidx, hidxSet⟩
    · exact .inr (.inl ⟨hop ▸ hdata, hdataSet⟩)

/-- The byte of MSG_APPEND lies in the lowest bits of the word. -/
theorem dataField_low_byte (cmd : CommandWord) : (dataField cmd).extractLsb' 0 8 = cmd.extractLsb' 0 8 := by
  ext k hk
  simp [dataField]

/-- MSG_APPEND's data field is a byte, and all else but the opcode is reserved. -/
theorem issue_msgAppend {cmd : CommandWord} (s : State) (hop : opField cmd = 0x02) :
    issue cmd s = if idxField cmd = 0 ∧ (dataField cmd).toNat ≤ 255 then exec (.msgAppend (cmd.extractLsb' 0 8)) s
      else .next (s.raise .reservedField 0x02) := by
  rw [← hop]
  refine issue_eq_ite s (fun hfit => ?_) fun hnot => ?_
  · obtain ⟨hidx, hdata⟩ := hfit
    have hbyte := byte_setWidth_of_high_zero _ ((high_bits_zero_iff _).mpr hdata)
    rw [dataField_low_byte] at hbyte
    exact encode_eq_iff.mpr ⟨hop, hidx, hbyte.symm⟩
  · obtain hidx | hdata := not_and_or.mp hnot
    · exact .inl ⟨by rw [hop]; decide, hidx⟩
    · exact .inr (.inr ⟨hop, Nat.lt_of_not_le hdata⟩)

end Sys2Proof.Machine
end

section
/-! The padder's three commands (40_padder.md R84 to R86). -/

namespace Sys2Proof.Machine

/-- A command with no check, and with an effect that repeats without a further change, is idempotent. -/
theorem exec_idempotent {i : Instr} (hpass : ∀ s, firstError (checksOf i s) = none)
    (heffect : ∀ s, effectOf i (effectOf i s) = effectOf i s) (s t : State) (h : exec i s = .next t) :
    exec i t = .next t := by
  rw [exec_of_pass (hpass s)] at h
  obtain rfl := Host.Outcome.next.inj h
  rw [exec_of_pass (hpass _), heffect]

/-- Settles O25: MSG_CLEAR checks nothing, and a cleared buffer stays cleared. -/
theorem msgClearEmptiesTheBuffer : Obligations.MsgClearEmptiesTheBuffer :=
  ⟨fun _ => exec_of_pass rfl, exec_idempotent (fun _ => rfl) (fun _ => rfl),
    takesNoOperands_of_dataReserved (i := .msgClear) (by decide)⟩

/-- Settles O27: PAD checks nothing, and an armed view stays armed. -/
theorem padArmsThePaddedView : Obligations.PadArmsThePaddedView :=
  ⟨fun _ => exec_of_pass rfl, exec_idempotent (fun _ => rfl) (fun _ => rfl),
    takesNoOperands_of_dataReserved (i := .pad) (by decide)⟩

theorem exec_msgAppend_of_room {s : State} (b : Byte) (hroom : s.len ≠ s.capacity) :
    exec (.msgAppend b) s = .next (s.appendByte b) :=
  exec_of_pass (by simp [checksOf, State.checkRoom, firstError, hroom])

theorem exec_msgAppend_of_full {s : State} (b : Byte) (hfull : s.len = s.capacity) :
    exec (.msgAppend b) s = .next (s.raise .msgFull 0x02) :=
  exec_of_fail (by simp [checksOf, State.checkRoom, firstError, hfull])

/-- Settles O26: the one check of MSG_APPEND is for room, and its effect appends one cell. -/
theorem msgAppendAddsOneByte : Obligations.MsgAppendAddsOneByte :=
  ⟨fun s b hroom => ⟨s.msg.append b, exec_msgAppend_of_room b hroom, Memory.append_length _ _,
      Memory.append_byteAt_new _ _, fun _ => Memory.append_byteAt_other _ _⟩,
    fun _ b hfull => exec_msgAppend_of_full b hfull,
    fun _ s hop => issue_msgAppend s hop⟩

end Sys2Proof.Machine
end

section
/-! How much the padding adds: the zero fill (40_padder.md R81) and the number of blocks (20_memory.md R42, 40_padder.md
R87). -/

namespace Sys2Proof.Machine

/-- R81's formula, over the integers. -/
theorem zeroFill_eq_emod (len : Nat) : (Reference.zeroFill len : Int) = (55 - (len : Int)) % 64 :=
  Int.toNat_of_nonneg (Int.emod_nonneg _ (by decide))

theorem zeroFill_lt (len : Nat) : Reference.zeroFill len < 64 := by
  have hfill := zeroFill_eq_emod len
  omega

theorem zeroFill_completes_block (len : Nat) : (len + 1 + Reference.zeroFill len + 8) % 64 = 0 := by
  have hfill := zeroFill_eq_emod len
  omega

/-- Two numbers below 64 that complete a block differ by a multiple of 64. -/
theorem eq_zeroFill {len k : Nat} (hk : k < 64) (h : (len + 1 + k + 8) % 64 = 0) : k = Reference.zeroFill len := by
  have hlt := zeroFill_lt len
  have hcompletes := zeroFill_completes_block len
  omega

theorem paddedLength_eq (len : Nat) : paddedLength len = len + 9 + Reference.zeroFill len := by
  have hlt := zeroFill_lt len
  have hcompletes := zeroFill_completes_block len
  unfold paddedLength blockCount
  omega

/-- Settles O29: each other formula for the zero fill is below 64 and completes a block. -/
theorem zeroFillIsTheUniqueResidue : Obligations.ZeroFillIsTheUniqueResidue := fun len =>
  ⟨zeroFill_lt len, zeroFill_completes_block len, fun _ => eq_zeroFill,
    (eq_zeroFill (Nat.mod_lt _ (by decide)) (by omega)).symm,
    fun hresidue => (eq_zeroFill (by decide) (by omega)).symm, paddedLength_eq len⟩

/-- The terminator byte and the length field fit the block in which the message ends. -/
theorem blockCount_of_residue_le {len : Nat} (h : len % 64 ≤ 55) : blockCount len = len / 64 + 1 := by
  unfold blockCount
  omega

/-- The length field needs a block of its own after the one in which the message ends. -/
theorem blockCount_of_residue_ge {len : Nat} (h : 56 ≤ len % 64) : blockCount len = len / 64 + 2 := by
  unfold blockCount
  omega

theorem blockCount_succ (len : Nat) :
    blockCount (len + 1) = blockCount len + (if len % 64 = 55 then 1 else 0) := by
  unfold blockCount
  split <;> omega

/-- Settles O30, by whether the length field still fits the block in which the message ends. -/
theorem blockCountGrowsAtFiftySix : Obligations.BlockCountGrowsAtFiftySix := by
  intro len
  refine ⟨fun hlen => ?_, fun hlow hhigh => ?_, blockCount_succ len, ?_, fun hresidue => ?_⟩
  · rw [blockCount_of_residue_le (by omega)]; omega
  · by_cases hresidue : len % 64 ≤ 55
    · rw [blockCount_of_residue_le hresidue]; omega
    · rw [blockCount_of_residue_ge (by omega)]; omega
  · by_cases hresidue : len % 64 ≤ 55
    · rw [blockCount_of_residue_le hresidue]; omega
    · rw [blockCount_of_residue_ge (by omega)]; omega
  · rw [blockCount_of_residue_ge hresidue]; omega

end Sys2Proof.Machine
end

section
/-! The padded view byte by byte (40_padder.md R83), and that it is the padded message (R80, R82). -/

namespace Sys2Proof.Machine

theorem padByte_message (m : Memory) {n : Nat} (h : n < m.length) : padByte m n = m.bytes[n]'(by simpa using h) := by
  rw [padByte, dif_pos h, msgByte_eq_bytes]

theorem padByte_terminator (m : Memory) : padByte m m.length = 0x80 := by
  rw [padByte, dif_neg (Nat.lt_irrefl _), if_pos rfl]

theorem padByte_zeroFill (m : Memory) {i : Nat} (h : i < Reference.zeroFill m.length) :
    padByte m (m.length + 1 + i) = 0 := by
  have hlength := paddedLength_eq m.length
  rw [padByte, dif_neg (by omega), if_neg (by omega), if_pos (by omega)]

/-- The last eight bytes are those of the length in bits, the most significant first. -/
theorem padByte_lengthField (m : Memory) {i : Nat} (h : i < 8) :
    padByte m (m.length + 1 + Reference.zeroFill m.length + i) =
      (BitVec.ofNat 64 (8 * m.length)).extractLsb' (56 - 8 * i) 8 := by
  have hlength := paddedLength_eq m.length
  have hshift : 8 * (paddedLength m.length - 1 - (m.length + 1 + Reference.zeroFill m.length + i)) = 56 - 8 * i := by
    omega
  rw [padByte, dif_neg (by omega), if_neg (by omega), if_neg (by omega), hshift]
  apply BitVec.eq_of_toNat_eq
  rw [BitVec.toNat_ofNat, BitVec.extractLsb'_toNat, BitVec.toNat_ofNat, lengthField,
    show (0xFF : Nat) = 2 ^ 8 - 1 from rfl, Nat.and_two_pow_sub_one_eq_mod, Nat.mod_mod]

theorem bytesBE64_eq_map_range (y : BitVec 64) :
    bytesBE64 y = (List.range 8).map fun i => y.extractLsb' (56 - 8 * i) 8 := rfl

theorem map_padByte_message (m : Memory) : (List.range m.length).map (padByte m) = m.bytes := by
  apply List.ext_getElem
  · simp
  · intro n hn _
    rw [List.getElem_map, List.getElem_range]
    exact padByte_message m (by simpa using hn)

/-- Settles O28, by the four parts of the padded message, each of its own length. -/
theorem paddedViewIsThePaddedMessage : Obligations.PaddedViewIsThePaddedMessage := by
  intro m
  have hzeros : (List.range (Reference.zeroFill m.length)).map (fun i => padByte m (m.length + 1 + i)) =
      List.replicate (Reference.zeroFill m.length) 0 := by
    rw [List.map_congr_left fun i hi => padByte_zeroFill m (List.mem_range.mp hi), List.map_const', List.length_range]
  have hfield : (List.range 8).map (fun i => padByte m (m.length + 1 + Reference.zeroFill m.length + i)) =
      bytesBE64 (BitVec.ofNat 64 (8 * m.length)) := by
    rw [bytesBE64_eq_map_range]
    exact List.map_congr_left fun i hi => padByte_lengthField m (List.mem_range.mp hi)
  have hparts : paddedLength m.length = m.length + 1 + Reference.zeroFill m.length + 8 := by
    rw [paddedLength_eq]; omega
  rw [hparts, List.range_add, List.range_add, List.range_succ]
  simp only [List.map_append, List.map_map, List.map_cons, List.map_nil, Function.comp_def]
  rw [map_padByte_message, padByte_terminator, hzeros, hfield, Reference.pad, Memory.bytes_length]

end Sys2Proof.Machine
end

section
/-! The four sigmas bit by bit (41_scheduler.md R100, R101, 42_compressor.md R120, R121). -/

namespace Sys2Proof.Machine

/-- A right shift shows the bit `n` places up, and zeros where there is none. -/
theorem shr_getLsbD_eq_and (x : Word) (n i : Nat) :
    (shr x n).getLsbD i = (decide (i + n < 32) && x.getLsbD (i + n)) := by
  rw [shr_getLsbD, Nat.add_comm n i]
  by_cases h : i + n < 32
  · simp [h]
  · rw [BitVec.getLsbD_of_ge x _ (Nat.le_of_not_lt h), Bool.and_false]

/-- Settles O13: the bit of an XOR is the XOR of the bits, and each of these is that of a rotation or of a shift. -/
theorem sigmasMixTheNamedBits : Obligations.SigmasMixTheNamedBits := by
  intro x i hi
  have hrotr (n : Nat) (hpos : 0 < n) (hlt : n < 32) : (rotr x n).getLsbD i = x.getLsbD ((i + n) % 32) :=
    rotrRotatesRight x n hpos hlt i hi
  simp (disch := decide) only [smallSigma0, smallSigma1, bigSigma0, bigSigma1, BitVec.getLsbD_xor, hrotr,
    shr_getLsbD_eq_and, and_self]

end Sys2Proof.Machine
end

section
/-! What the commands of the scheduler share with others: which words spell a command with a block index, or with an index
and a word (30_encoding.md R61, R62), and which check of a list fails first (60_exceptions.md R165). -/

namespace Sys2Proof.Machine

/-- A command whose block index is its data operand, and which has no other. -/
theorem takesBlockIndex_of_operands {op : BitVec 8} {i : BitVec 32 → Instr} (hop : ∀ j, (i j).opcode = op)
    (hdata : ∀ j, (i j).dataOperand = j) (hreserved : op.toNat ∈ idxReserved) : takesBlockIndex op i := by
  intro cmd s hcmd
  have hidx (j : BitVec 32) : (i j).idxOperand = 0 := idxOperand_eq_zero_of_reserved (by rwa [hop j])
  rw [← hcmd]
  refine issue_eq_ite s (fun hzero => ?_) fun hset => ?_
  · rw [encode_eq_iff, hop, hidx, hdata]
    exact ⟨hcmd, hzero, rfl⟩
  · exact .inl ⟨hcmd ▸ hreserved, hset⟩

/-- A command whose two operands are the two fields. -/
theorem takesIndexAndWord_of_operands {op : BitVec 8} {i : BitVec 24 → Word → Instr} (hop : ∀ t v, (i t v).opcode = op)
    (hidx : ∀ t v, (i t v).idxOperand = t) (hdata : ∀ t v, (i t v).dataOperand = v) : takesIndexAndWord op i := by
  intro cmd s hcmd
  refine issue_of_decode_ok (decode_eq_ok_iff.mpr ?_) s
  rw [encode_eq_iff, hop, hidx, hdata]
  exact ⟨hcmd, rfl, rfl⟩

theorem firstError_cons_of_fails {c : Bool × ErrorCode} (h : c.1 = true) (rest : List (Bool × ErrorCode)) :
    firstError (c :: rest) = some c.2 := if_pos h

theorem firstError_cons_of_passes {c : Bool × ErrorCode} (h : c.1 = false) (rest : List (Bool × ErrorCode)) :
    firstError (c :: rest) = firstError rest := if_neg (Bool.eq_false_iff.mp h)

/-- A command that checks for an open compression before all else is BUSY while one is open. -/
theorem exec_busy_of_act {i : Instr} {s : State} {rest : List (Bool × ErrorCode)}
    (hchecks : checksOf i s = s.checkIdle :: rest) (hact : s.act = true) :
    exec i s = .next (s.raise .busy i.opcode) :=
  exec_of_fail (by rw [hchecks]; exact firstError_cons_of_fails hact rest)

/-! The checks on a padded block, which W_LOAD and BLOCK make (41_scheduler.md R104, 43_composite.md R150). -/

theorem checkPadded_fails {s : State} (hpadv : s.padv = false) : s.checkPadded.1 = true := by
  simp [State.checkPadded, hpadv]

theorem checkPadded_passes {s : State} (hpadv : s.padv = true) : s.checkPadded.1 = false := by
  simp [State.checkPadded, hpadv]

theorem checkBlock_of_padv {s : State} (hpadv : s.padv = true) (j : BitVec 32) :
    (s.checkBlock j).1 = decide (blockCount s.msg.length ≤ j.toNat) := by
  rw [State.checkBlock, blockIndexBad, s.nb_of_padv hpadv, State.len]

section
variable {i : Instr} {s : State} {j : BitVec 32} (hchecks : checksOf i s = [s.checkIdle, s.checkPadded, s.checkBlock j])
include hchecks

theorem exec_of_paddedBlock (hact : s.act = false) (hpadv : s.padv = true) (hj : j.toNat < blockCount s.msg.length) :
    exec i s = .next (effectOf i s) := by
  refine exec_of_pass ?_
  have hblock : (s.checkBlock j).1 = false := by
    rw [checkBlock_of_padv hpadv]
    exact decide_eq_false (Nat.not_le_of_lt hj)
  rw [hchecks, firstError_cons_of_passes hact, firstError_cons_of_passes (checkPadded_passes hpadv),
    firstError_cons_of_passes hblock]
  rfl

theorem exec_noPad_of_disarmed (hact : s.act = false) (hpadv : s.padv = false) :
    exec i s = .next (s.raise .noPad i.opcode) := by
  refine exec_of_fail ?_
  rw [hchecks, firstError_cons_of_passes hact]
  exact firstError_cons_of_fails (checkPadded_fails hpadv) _

theorem exec_blockRange_of_ge (hact : s.act = false) (hpadv : s.padv = true) (hj : blockCount s.msg.length ≤ j.toNat) :
    exec i s = .next (s.raise .blockRange i.opcode) := by
  refine exec_of_fail ?_
  have hblock : (s.checkBlock j).1 = true := by
    rw [checkBlock_of_padv hpadv]
    exact decide_eq_true hj
  rw [hchecks, firstError_cons_of_passes hact, firstError_cons_of_passes (checkPadded_passes hpadv)]
  exact firstError_cons_of_fails hblock _

end

end Sys2Proof.Machine
end

section
/-! W_WRITE (41_scheduler.md R105). -/

namespace Sys2Proof.Machine

theorem wIndexBad_iff {t : BitVec 24} : wIndexBad t = true ↔ 63 < t.toNat := decide_eq_true_iff

theorem wIndexBad_eq_false_iff {t : BitVec 24} : wIndexBad t = false ↔ t.toNat ≤ 63 := by
  rw [← Bool.not_eq_true, wIndexBad_iff, Nat.not_lt]

theorem exec_wWrite_of_lt {s : State} {t : BitVec 24} (v : Word) (ht : t.toNat < 64) (hact : s.act = false) :
    exec (.wWrite t v) s = .next { s with w := s.w.set t.toNat v } := by
  have hpass : firstError (checksOf (.wWrite t v) s) = none := by
    rw [checksOf, firstError_cons_of_passes (wIndexBad_eq_false_iff.mpr (Nat.le_of_lt_succ ht)),
      firstError_cons_of_passes hact]
    rfl
  rw [exec_of_pass hpass, ← State.writeW_of_lt s t.toNat v ht]
  rfl

theorem exec_wWrite_of_badIndex {s : State} {t : BitVec 24} (v : Word) (ht : 63 < t.toNat) :
    exec (.wWrite t v) s = .next (s.raise .badIndex 0x21) :=
  exec_of_fail (firstError_cons_of_fails (wIndexBad_iff.mpr ht) _)

theorem exec_wWrite_of_act {s : State} {t : BitVec 24} (v : Word) (ht : t.toNat ≤ 63) (hact : s.act = true) :
    exec (.wWrite t v) s = .next (s.raise .busy 0x21) := by
  refine exec_of_fail (i := .wWrite t v) ?_
  rw [checksOf, firstError_cons_of_passes (wIndexBad_eq_false_iff.mpr ht)]
  exact firstError_cons_of_fails hact _

/-- Settles O32: the index is checked before the open compression, and the effect writes one word. -/
theorem wWriteWritesOneWord : Obligations.WWriteWritesOneWord :=
  ⟨fun _ _ v ht hact => exec_wWrite_of_lt v ht hact, fun _ _ v ht => exec_wWrite_of_badIndex v ht,
    fun _ _ v ht hact => exec_wWrite_of_act v ht hact,
    takesIndexAndWord_of_operands (fun _ _ => rfl) (fun _ _ => rfl) fun _ _ => rfl⟩

end Sys2Proof.Machine
end

section
/-! W_EXPAND (41_scheduler.md R103, R106), and that it is the list recurrence of the source (R107). -/

namespace Sys2Proof.Machine

/-- Writing word `k` extends the first `k` words by one. -/
theorem take_succ_set (w : Schedule) {k : Nat} (hk : k < 64) (x : Word) :
    (w.set k x).toList.take (k + 1) = w.toList.take k ++ [x] := by
  rw [Vector.toList_set, List.take_succ_eq_append_getElem (by simpa using hk), List.take_set_of_le (Nat.le_refl k),
    List.getElem_set_self]

/-- A word of a schedule is found at its place in every longer list of first words. -/
theorem take_getD (w : Schedule) {n k : Nat} (hk : k < n) (hn : n ≤ 64) :
    (w.toList.take n).getD k 0 = w[k]'(Nat.lt_of_lt_of_le hk hn) := by
  have hk' : k < 64 := Nat.lt_of_lt_of_le hk hn
  simp [List.getD_eq_getElem?_getD, hk, hk']

/-- The step of the loop reads the same words as the source's list recurrence. -/
theorem expandStep_eq_getD (w : Schedule) (n : Nat) (h : 16 + n < 64) :
    expandStep w ⟨16 + n, h⟩ =
      smallSigma1 ((w.toList.take (16 + n)).getD (n + 14) 0) + (w.toList.take (16 + n)).getD (n + 9) 0 +
        smallSigma0 ((w.toList.take (16 + n)).getD (n + 1) 0) + (w.toList.take (16 + n)).getD n 0 := by
  have h2 : 16 + n - 2 = n + 14 := by omega
  have h7 : 16 + n - 7 = n + 9 := by omega
  have h15 : 16 + n - 15 = n + 1 := by omega
  have h16 : 16 + n - 16 = n := by omega
  simp (disch := omega) only [expandStep, take_getD, h2, h7, h15, h16]

/-- Step by step the loop of W_EXPAND extends the first words as the source's list recurrence does. -/
theorem setWords_expandStep_take (w : Schedule) (n : Nat) (h : 16 + n ≤ 64) :
    (setWords expandStep 16 n h w).toList.take (16 + n) = Reference.extend (w.toList.take 16) n := by
  induction n with
  | zero => rfl
  | succ n ih =>
    rw [Reference.extend, ← ih (by omega), ← expandStep_eq_getD _ n h]
    exact take_succ_set _ h _

/-- The expanded schedule is the source's, from the first 16 words (R107). -/
theorem expandWords_toList (w : Schedule) : (expandWords w).toList = Reference.extend (w.toList.take 16) 48 := by
  rw [← setWords_expandStep_take w 48 (by decide), expandWords, List.take_of_length_le (Nat.le_of_eq (by simp))]

theorem take_sixteen_eq {u w : Schedule} (h : ∀ i (hi : i < 16), u[i] = w[i]) :
    u.toList.take 16 = w.toList.take 16 := by
  apply List.ext_getElem
  · simp
  · intro i hi _
    have hlow : i < 16 := by simpa using hi
    simpa using h i hlow

/-- The expanded schedule depends on words 0..15 alone (R103). -/
theorem expandWords_congr {u w : Schedule} (h : ∀ i (hi : i < 16), u[i] = w[i]) : expandWords u = expandWords w := by
  rw [← Vector.toList_inj, expandWords_toList, expandWords_toList, take_sixteen_eq h]

theorem expandWords_idempotent (w : Schedule) : expandWords (expandWords w) = expandWords w :=
  expandWords_congr (expandWords_low w)

theorem exec_wExpand_of_idle {s : State} (hact : s.act = false) :
    exec .wExpand s = .next { s with w := expandWords s.w } :=
  exec_of_pass (i := .wExpand) (firstError_cons_of_passes hact [])

/-- Settles O33: the loop keeps words 0..15, on which its result depends alone. -/
theorem wExpandSatisfiesTheRecurrence : Obligations.WExpandSatisfiesTheRecurrence := by
  refine ⟨fun s hact => ⟨expandWords s.w, exec_wExpand_of_idle hact, expandWords_low s.w,
    fun i hi h16 => expandWords_high s.w ⟨i, hi⟩ h16, ?_⟩, ?_,
    fun s hact => exec_busy_of_act rfl hact, takesNoOperands_of_dataReserved (i := .wExpand) (by decide)⟩
  · have hagain : exec .wExpand { s with w := expandWords s.w } =
        .next { s with w := expandWords (expandWords s.w) } := exec_wExpand_of_idle hact
    rwa [expandWords_idempotent] at hagain
  · intro s t s' t' hlow hs ht hs' ht'
    rw [exec_wExpand_of_idle hs] at hs'
    rw [exec_wExpand_of_idle ht] at ht'
    cases hs'
    cases ht'
    exact expandWords_congr hlow

end Sys2Proof.Machine
end

section
/-! Packing bytes that stand side by side (00_scope.md R12). -/

namespace Sys2Proof.Machine

/-- Four bytes that stand side by side, the highest first, pack into the word that stands there. -/
theorem be32_consecutive {w : Nat} (y : BitVec w) (p : Nat) :
    be32 (y.extractLsb' (p + 24) 8) (y.extractLsb' (p + 16) 8) (y.extractLsb' (p + 8) 8) (y.extractLsb' p 8) =
      y.extractLsb' p 32 := by
  apply BitVec.eq_of_toNat_eq
  simp only [be32_toNat, toNat_extract_byte, Nat.pow_add, ← Nat.div_div_eq_div_mul]
  rw [BitVec.extractLsb'_toNat, Nat.shiftRight_eq_div_pow]
  omega

theorem be32_bytes (x : Word) :
    be32 (x.extractLsb' 24 8) (x.extractLsb' 16 8) (x.extractLsb' 8 8) (x.extractLsb' 0 8) = x :=
  (be32_consecutive x 0).trans BitVec.extractLsb'_eq_self

end Sys2Proof.Machine
end

section
/-! W_LOAD (41_scheduler.md R102, R104). -/

namespace Sys2Proof.Machine

theorem loadWords_idempotent (m : Memory) (j : Nat) (w : Schedule) :
    loadWords m j (loadWords m j w) = loadWords m j w := by
  apply Vector.ext
  intro t ht
  by_cases hlow : t < 16
  · rw [loadWords_low _ _ _ t hlow, loadWords_low _ _ _ t hlow]
  · exact loadWords_high m j _ t ht (Nat.le_of_not_lt hlow)

theorem exec_wLoad_of_paddedBlock {s : State} {j : BitVec 32} (hact : s.act = false) (hpadv : s.padv = true)
    (hj : j.toNat < blockCount s.msg.length) :
    exec (.wLoad j) s = .next { s with w := loadWords s.msg j.toNat s.w } :=
  exec_of_paddedBlock (i := .wLoad j) rfl hact hpadv hj

/-- The last block ends with the eight bytes of the length in bits, the last one from the lowest bits. -/
theorem padByte_lastBlock {m : Memory} {j n p : Nat} (hj : j + 1 = blockCount m.length)
    (hn : 8 * n + p = 8 * (64 * j + 63)) (hp : p ≤ 56) :
    padByte m n = (BitVec.ofNat 64 (8 * m.length)).extractLsb' p 8 := by
  have hlength := paddedLength_eq m.length
  rw [paddedLength, ← hj] at hlength
  obtain ⟨i, rfl⟩ : ∃ i, n = m.length + 1 + Reference.zeroFill m.length + i := ⟨n - (64 * j + 56), by omega⟩
  have hplace : p = 56 - 8 * i := by omega
  rw [padByte_lengthField m (by omega), hplace]

/-- W[14] and W[15] of the last block are the halves of the length in bits, the high one first (40_padder.md R82). -/
theorem blockWord_lastBlock {m : Memory} {j : Nat} (hj : j + 1 = blockCount m.length) {k : Nat} (hk : k < 2) :
    blockWord m j (14 + k) = (BitVec.ofNat 64 (8 * m.length)).extractLsb' (32 - 32 * k) 32 := by
  rw [blockWord, padByte_lastBlock hj (p := 32 - 32 * k + 24) (by omega) (by omega),
    padByte_lastBlock hj (p := 32 - 32 * k + 16) (by omega) (by omega),
    padByte_lastBlock hj (p := 32 - 32 * k + 8) (by omega) (by omega),
    padByte_lastBlock hj (p := 32 - 32 * k) (by omega) (by omega), be32_consecutive]

theorem blockWord_lastBlock_toNat {m : Memory} {j : Nat} (hj : j + 1 = blockCount m.length) :
    (blockWord m j 14).toNat = 8 * m.length % 2 ^ 64 / 2 ^ 32 ∧ (blockWord m j 15).toNat = 8 * m.length % 2 ^ 32 := by
  have hhigh := blockWord_lastBlock hj (k := 0) (by decide)
  have hlow := blockWord_lastBlock hj (k := 1) (by decide)
  rw [hhigh, hlow, BitVec.extractLsb'_toNat, BitVec.extractLsb'_toNat, BitVec.toNat_ofNat]
  omega

/-- Settles O31: words 0..15 come from the padded view, which W_LOAD leaves as it is. -/
theorem wLoadLoadsThePaddedBlock : Obligations.WLoadLoadsThePaddedBlock := by
  refine ⟨fun s j hact hpadv hj => ⟨loadWords s.msg j.toNat s.w, exec_wLoad_of_paddedBlock hact hpadv hj,
      loadWords_low _ _ _, loadWords_high _ _ _, fun hlast => ?_, ?_⟩,
    fun s j => ⟨exec_busy_of_act rfl, exec_noPad_of_disarmed rfl, exec_blockRange_of_ge rfl⟩,
    takesBlockIndex_of_operands (fun _ => rfl) (fun _ => rfl) (by decide)⟩
  · obtain ⟨h14, h15⟩ := blockWord_lastBlock_toNat hlast
    rw [loadWords_low _ _ _ 14 (by decide), loadWords_low _ _ _ 15 (by decide), h14, h15]
  · have hagain : exec (.wLoad j) { s with w := loadWords s.msg j.toNat s.w } =
        .next { s with w := loadWords s.msg j.toNat (loadWords s.msg j.toNat s.w) } :=
      exec_wLoad_of_paddedBlock hact hpadv hj
    rwa [loadWords_idempotent] at hagain

end Sys2Proof.Machine
end

section
/-! Loading and expanding is the source's `expand` (41_scheduler.md R107). -/

namespace Sys2Proof.Machine

/-- The 64 bytes of padded block j (20_memory.md R43). -/
def paddedBlock (m : Memory) (j : Nat) : List Byte := (List.range 64).map fun i => padByte m (64 * j + i)

/-- The padded blocks are the consecutive slices of the padded message. -/
theorem blocks_pad (m : Memory) :
    Reference.blocks (Reference.pad m.bytes) = (List.range (blockCount m.length)).map (paddedBlock m) := by
  have hslice {j : Nat} (hj : j < blockCount m.length) :
      (((List.range (paddedLength m.length)).map (padByte m)).drop (64 * j)).take 64 = paddedBlock m j := by
    apply List.ext_getElem
    · simp [paddedLength, paddedBlock]
      omega
    · simp [paddedBlock]
  have hcount : paddedLength m.length / 64 = blockCount m.length := Nat.mul_div_cancel_left _ (by decide)
  rw [← paddedViewIsThePaddedMessage m, Reference.blocks, List.length_map, List.length_range, hcount]
  exact List.map_congr_left fun j hj => hslice (List.mem_range.mp hj)

theorem beWords_flatMap_bytesBE32 (ws : List Word) : Reference.beWords (ws.flatMap bytesBE32) = ws := by
  induction ws with
  | nil => rfl
  | cons x ws ih =>
    rw [List.flatMap_cons, bytesBE32]
    exact congrArg₂ List.cons (be32_bytes x) ih

theorem expand_flatMap_bytesBE32 (ws : List Word) : Reference.expand (ws.flatMap bytesBE32) = Reference.extend ws 48 := by
  rw [Reference.expand, beWords_flatMap_bytesBE32]

/-- Four consecutive bytes of the padded view are the bytes of one word of the block. -/
theorem map_padByte_eq_blockWords (m : Memory) (j n : Nat) :
    (List.range (4 * n)).map (fun i => padByte m (64 * j + i)) =
      ((List.range n).map (blockWord m j)).flatMap bytesBE32 := by
  induction n with
  | zero => rfl
  | succ n ih =>
    rw [Nat.mul_succ, List.range_add, List.map_append, ih, List.range_succ (n := n), List.map_append, List.flatMap_append]
    congr 1
    simp [blockWord, bytesBE32_be32, List.range_succ, Nat.add_assoc]

theorem loadWords_take (m : Memory) (j : Nat) (w : Schedule) :
    (loadWords m j w).toList.take 16 = (List.range 16).map (blockWord m j) := by
  apply List.ext_getElem
  · simp
  · intro t ht _
    have hlow : t < 16 := by simpa using ht
    simpa using loadWords_low m j w t hlow

/-- The schedule of a loaded and expanded block is the source's `expand` of it. -/
theorem expandWords_loadWords_toList (m : Memory) (j : Nat) (w : Schedule) :
    (expandWords (loadWords m j w)).toList = Reference.expand (paddedBlock m j) := by
  have hwords : paddedBlock m j = ((List.range 16).map (blockWord m j)).flatMap bytesBE32 :=
    map_padByte_eq_blockWords m j 16
  rw [expandWords_toList, loadWords_take, hwords, expand_flatMap_bytesBE32]

/-- A run of W_WRITE from index `k` on extends the first `k` words by the words written, and changes nothing else but
words. -/
theorem execAll_writesFrom_wWrite (is : List Instr) (ws : List Word) {s : State} (hact : s.act = false) {k : Nat}
    (hk : k + ws.length ≤ 64) :
    ∃ w : Schedule, execAll (Assembler.writesFrom .wWrite k ws ++ is) s = execAll is { s with w := w } ∧
      w.toList.take (k + ws.length) = s.w.toList.take k ++ ws := by
  induction ws generalizing s k with
  | nil => exact ⟨s.w, rfl, by simp⟩
  | cons x ws ih =>
    rw [List.length_cons] at hk
    have hindex : (BitVec.ofNat 24 k).toNat = k := Assembler.index_toNat (by omega)
    have hwrite : exec (.wWrite (BitVec.ofNat 24 k) x) s = .next { s with w := s.w.set k x } := by
      rw [exec_wWrite_of_lt x (by omega) hact]
      simp only [hindex]
    obtain ⟨w, hrun, htake⟩ := ih (s := { s with w := s.w.set k x }) hact (k := k + 1) (by omega)
    refine ⟨w, (execAll_cons_of_exec hwrite _).trans hrun, ?_⟩
    rw [List.length_cons, Nat.add_comm ws.length, ← Nat.add_assoc, htake, take_succ_set _ (by omega)]
    simp

theorem execAll_singleton {i : Instr} {s t : State} (h : exec i s = .next t) : execAll [i] s = .next t :=
  execAll_cons_of_exec h []

/-- Settles O34: either way the first 16 words are those of the block, and the rest is the list recurrence. -/
theorem loadThenExpandIsTheSourceExpand : Obligations.LoadThenExpandIsTheSourceExpand := by
  refine ⟨fun s j hact hpadv hj => ?_, fun s ws hact hlen => ?_⟩
  · refine ⟨expandWords (loadWords s.msg j.toNat s.w), ?_, paddedBlock s.msg j.toNat, ?_,
      expandWords_loadWords_toList _ _ _⟩
    · rw [execAll_cons_of_exec (exec_wLoad_of_paddedBlock hact hpadv hj)]
      exact execAll_singleton (exec_wExpand_of_idle hact)
    · simp [blocks_pad, hj]
  · obtain ⟨w, hrun, htake⟩ := execAll_writesFrom_wWrite [.wExpand] ws hact (k := 0) (by omega)
    have hfirst : w.toList.take 16 = ws := by simpa [hlen] using htake
    refine ⟨expandWords w, hrun.trans (execAll_singleton (exec_wExpand_of_idle hact)), ?_⟩
    rw [expandWords_toList, hfirst, expand_flatMap_bytesBE32]

end Sys2Proof.Machine
end

section
/-! Ch and Maj (42_compressor.md R122, R123). -/

namespace Sys2Proof.Machine

theorem ch_getLsbD (x y z : Word) {i : Nat} (hi : i < 32) :
    (ch x y z).getLsbD i = if x.getLsbD i then y.getLsbD i else z.getLsbD i := by
  have hbit : (ch x y z).getLsbD i = (x.getLsbD i && y.getLsbD i ^^ !x.getLsbD i && z.getLsbD i) := by simp [ch, hi]
  rw [hbit]
  cases x.getLsbD i
  · exact Bool.false_xor _
  · exact Bool.xor_false _

theorem ch_allOnes (y z : Word) : ch (BitVec.allOnes 32) y z = y := by
  rw [ch, BitVec.not_allOnes, BitVec.allOnes_and, BitVec.zero_and, BitVec.xor_zero]

theorem ch_zero (y z : Word) : ch 0#32 y z = z := by
  rw [ch, BitVec.not_zero, BitVec.allOnes_and, BitVec.zero_and, BitVec.zero_xor]

/-- Settles O14: at each bit of x one of the two terms of the XOR is 0. -/
theorem chChoosesBitByBit : Obligations.ChChoosesBitByBit := fun x y z =>
  ⟨fun _ => ch_getLsbD x y z, ch_allOnes y z, ch_zero y z⟩

theorem maj_getLsbD (x y z : Word) (i : Nat) : (maj x y z).getLsbD i =
    (x.getLsbD i && y.getLsbD i ^^ x.getLsbD i && z.getLsbD i ^^ y.getLsbD i && z.getLsbD i) := by
  simp only [maj, BitVec.getLsbD_xor, BitVec.getLsbD_and]

theorem xor_of_pairs_iff_majority : ∀ a b c : Bool,
    (a && b ^^ a && c ^^ b && c) = true ↔ 2 ≤ a.toNat + b.toNat + c.toNat := by decide

theorem maj_swap_first (x y z : Word) : maj x y z = maj y x z := by
  rw [maj, maj, BitVec.and_comm x y, BitVec.xor_assoc, BitVec.xor_assoc, BitVec.xor_comm (x &&& z)]

theorem maj_swap_last (x y z : Word) : maj x y z = maj x z y := by
  rw [maj, maj, BitVec.and_comm y z, BitVec.xor_comm (x &&& y)]

theorem maj_self (x z : Word) : maj x x z = x := by
  rw [maj, BitVec.xor_assoc, BitVec.xor_self, BitVec.and_self, BitVec.xor_zero]

/-- Settles O15: of one bit of each word, an odd number of the three pairs is 1 exactly when two of the bits are. -/
theorem majIsTheBitwiseMajority : Obligations.MajIsTheBitwiseMajority := fun x y z =>
  ⟨fun i _ => by rw [maj_getLsbD]; exact xor_of_pairs_iff_majority _ _ _,
    maj_swap_first x y z, maj_swap_last x y z, maj_self x z⟩

end Sys2Proof.Machine
end

section
/-! K and IV from the roots of the first primes (42_compressor.md R124, R125). -/

namespace Sys2Proof.Machine

/-- The numbers below a bound that satisfy `p`, in rising order, are the first ones that do. -/
theorem nth_of_filter_range {p : Nat → Prop} [DecidablePred p] {n k a : Nat}
    (h : ((List.range n).filter p)[k]? = some a) : Nat.nth p k = a := by
  induction n with
  | zero => simp at h
  | succ n ih =>
    rw [List.range_succ, List.filter_append] at h
    obtain hlt | hge := Nat.lt_or_ge k ((List.range n).filter p).length
    · exact ih (by rwa [List.getElem?_append_left hlt] at h)
    · rw [List.getElem?_append_right hge] at h
      have hp : p n := by
        by_contra hp
        simp [hp] at h
      obtain ⟨hle, rfl⟩ : k ≤ ((List.range n).filter p).length ∧ n = a := by
        simpa [hp, List.getElem?_singleton, Nat.sub_eq_zero_iff_le] using h
      have hk : k = Nat.count p n := by rw [Nat.count, List.countP_eq_length_filter]; omega
      rw [hk, Nat.nth_count hp]

/-- The 64 primes below 312. -/
def primeTable : List Nat :=
  [2, 3, 5, 7, 11, 13, 17, 19, 23, 29, 31, 37, 41, 43, 47, 53] ++
  [59, 61, 67, 71, 73, 79, 83, 89, 97, 101, 103, 107, 109, 113, 127, 131] ++
  [137, 139, 149, 151, 157, 163, 167, 173, 179, 181, 191, 193, 197, 199, 211, 223] ++
  [227, 229, 233, 239, 241, 251, 257, 263, 269, 271, 277, 281, 283, 293, 307, 311]

theorem filter_prime_range : (List.range 312).filter Nat.Prime = primeTable := by decide +kernel

theorem nth_prime_eq {k : Nat} (hk : k < 64) : Nat.nth Nat.Prime k = primeTable[k]'hk :=
  nth_of_filter_range (by rw [filter_prime_range]; exact List.getElem?_eq_getElem hk)

/-- The fraction of the k-th root of a prime p to 32 bits is x, and its integer part is below 7: the k-th root of
`p * 2^(32k)`, rounded down, is `2^32 * a + x` for such an integer part a. -/
abbrev IsRootFraction (k p : Nat) (x : Word) : Prop :=
  ∃ a < 7, (2 ^ 32 * a + x.toNat) ^ k ≤ p * 2 ^ (32 * k) ∧ p * 2 ^ (32 * k) < (2 ^ 32 * a + x.toNat + 1) ^ k

theorem IsRootFraction.exists_root {k p : Nat} {x : Word} (h : IsRootFraction k p x) :
    ∃ c, c ^ k ≤ p * 2 ^ (32 * k) ∧ p * 2 ^ (32 * k) < (c + 1) ^ k ∧ x.toNat = c % 2 ^ 32 := by
  obtain ⟨a, -, hle, hlt⟩ := h
  exact ⟨_, hle, hlt, by rw [Nat.mul_add_mod, Nat.mod_eq_of_lt x.isLt]⟩

theorem K_isRootFraction : ∀ r : Fin 64, IsRootFraction 3 (primeTable[r.val]'r.isLt) (K r) := by decide +kernel

theorem IV_isRootFraction : ∀ i : Fin 8, IsRootFraction 2 (primeTable[i.val]'(Nat.lt_trans i.isLt (by decide))) IV[i.val] := by
  decide +kernel

/-- Settles O17: the kernel finds the first 64 primes and the integer part of each root. -/
theorem kIsCubeRootsOfPrimes : Obligations.KIsCubeRootsOfPrimes := fun r => by
  rw [nth_prime_eq r.isLt]
  exact (K_isRootFraction r).exists_root

/-- Settles O18: as for K, with square roots. -/
theorem ivIsSquareRootsOfPrimes : Obligations.IVIsSquareRootsOfPrimes := fun i => by
  rw [nth_prime_eq (Nat.lt_trans i.isLt (by decide))]
  exact (IV_isRootFraction i).exists_root

end Sys2Proof.Machine
end

section
/-! H_INIT and H_WRITE (42_compressor.md R129, R130). -/

namespace Sys2Proof.Machine

theorem exec_hInit_of_idle {s : State} (hact : s.act = false) : exec .hInit s = .next s.loadIV :=
  exec_of_pass (i := .hInit) (firstError_cons_of_passes hact [])

/-- Settles O35: the one check is for an open compression, and loading IV again, or after reset, changes nothing. -/
theorem hInitLoadsIV : Obligations.HInitLoadsIV := by
  refine ⟨fun _ => exec_hInit_of_idle, fun s t hact h => ?_, fun c => exec_hInit_of_idle rfl,
    fun s hact => exec_busy_of_act rfl hact, takesNoOperands_of_dataReserved (i := .hInit) (by decide)⟩
  rw [exec_hInit_of_idle hact] at h
  cases h
  exact exec_hInit_of_idle hact

theorem hIndexBad_iff {i : BitVec 24} : hIndexBad i = true ↔ 7 < i.toNat := decide_eq_true_iff

theorem hIndexBad_eq_false_iff {i : BitVec 24} : hIndexBad i = false ↔ i.toNat ≤ 7 := by
  rw [← Bool.not_eq_true, hIndexBad_iff, Nat.not_lt]

theorem exec_hWrite_of_lt {s : State} {i : BitVec 24} (v : Word) (hi : i.toNat < 8) (hact : s.act = false) :
    exec (.hWrite i v) s = .next { s with h := s.h.set i.toNat v } := by
  have hpass : firstError (checksOf (.hWrite i v) s) = none := by
    rw [checksOf, firstError_cons_of_passes (hIndexBad_eq_false_iff.mpr (Nat.le_of_lt_succ hi)),
      firstError_cons_of_passes hact]
    rfl
  rw [exec_of_pass hpass, ← State.writeH_of_lt s i.toNat v hi]
  rfl

theorem exec_hWrite_of_badIndex {s : State} {i : BitVec 24} (v : Word) (hi : 7 < i.toNat) :
    exec (.hWrite i v) s = .next (s.raise .badIndex 0x11) :=
  exec_of_fail (firstError_cons_of_fails (hIndexBad_iff.mpr hi) _)

theorem exec_hWrite_of_act {s : State} {i : BitVec 24} (v : Word) (hi : i.toNat ≤ 7) (hact : s.act = true) :
    exec (.hWrite i v) s = .next (s.raise .busy 0x11) := by
  refine exec_of_fail (i := .hWrite i v) ?_
  rw [checksOf, firstError_cons_of_passes (hIndexBad_eq_false_iff.mpr hi)]
  exact firstError_cons_of_fails hact _

/-- Settles O36: the index is checked before the open compression, and the effect writes one word. -/
theorem hWriteWritesOneWord : Obligations.HWriteWritesOneWord :=
  ⟨fun _ _ v hi hact => exec_hWrite_of_lt v hi hact, fun _ _ v hi => exec_hWrite_of_badIndex v hi,
    fun _ _ v hi hact => exec_hWrite_of_act v hi hact,
    takesIndexAndWord_of_operands (fun _ _ => rfl) (fun _ _ => rfl) fun _ _ => rfl⟩

end Sys2Proof.Machine
end

section
/-! C_START, C_ROUND and C_FINISH (42_compressor.md R126 to R128, R131 to R133). -/

namespace Sys2Proof.Machine

/-! The check for an open compression, which C_ROUND and C_FINISH make before that of the round (60_exceptions.md R165). -/

theorem checkOpen_fails {s : State} (hact : s.act = false) : s.checkOpen.1 = true := by
  simp [State.checkOpen, hact]

theorem checkOpen_passes {s : State} (hact : s.act = true) : s.checkOpen.1 = false := by
  simp [State.checkOpen, hact]

section
variable {i : Instr} {s : State} {check : Bool × ErrorCode} (hchecks : checksOf i s = [s.checkOpen, check])
include hchecks

theorem exec_notActive_of_idle (hact : s.act = false) : exec i s = .next (s.raise .notActive i.opcode) :=
  exec_of_fail (by rw [hchecks]; exact firstError_cons_of_fails (checkOpen_fails hact) _)

theorem exec_of_open (hact : s.act = true) (hcheck : check.1 = false) : exec i s = .next (effectOf i s) :=
  exec_of_pass (by rw [hchecks, firstError_cons_of_passes (checkOpen_passes hact), firstError_cons_of_passes hcheck]; rfl)

theorem exec_fail_of_open (hact : s.act = true) (hcheck : check.1 = true) :
    exec i s = .next (s.raise check.2 i.opcode) :=
  exec_of_fail (by
    rw [hchecks, firstError_cons_of_passes (checkOpen_passes hact)]
    exact firstError_cons_of_fails hcheck _)

end

/-! C_START. -/

theorem exec_cStart_of_idle {s : State} (hact : s.act = false) : exec .cStart s = .next s.openCompression :=
  exec_of_pass (i := .cStart) (firstError_cons_of_passes hact [])

/-- No effect but C_FINISH's closes a compression. -/
theorem effectOf_act_of_open {i : Instr} {s : State} (hact : s.act = true) (hi : i ≠ .cFinish) :
    (effectOf i s).act = true := by
  cases i
  case cFinish => exact absurd rfl hi
  case cStart => rfl
  all_goals simpa [effectOf] using hact

theorem State.raise_act (s : State) (code : ErrorCode) (op : BitVec 8) : (s.raise code op).act = s.act := by
  rw [State.raise_frame]

theorem act_of_exec_of_open {i : Instr} {s t : State} (hact : s.act = true) (hi : i ≠ .cFinish) (h : exec i s = .next t) :
    t.act = true := by
  obtain ⟨code, -, rfl⟩ | ⟨-, rfl⟩ := exec_cases h
  · rw [State.raise_act, hact]
  · exact effectOf_act_of_open hact hi

/-- Settles O37: the one check of C_START is for an open compression, and all effects but C_FINISH's keep one open. -/
theorem cStartOpensACompression : Obligations.CStartOpensACompression := by
  refine ⟨fun _ => exec_cStart_of_idle, fun s hact => exec_busy_of_act rfl hact, fun i s t hact h hclosed => ?_,
    takesNoOperands_of_dataReserved (i := .cStart) (by decide)⟩
  by_contra hi
  rw [act_of_exec_of_open hact hi h] at hclosed
  cases hclosed

/-! C_ROUND. -/

theorem exec_cRound_of_lt {s : State} (hact : s.act = true) (hrnd : s.rnd.val < 64) :
    exec .cRound s = .next { s with
      v := compressionRound s.w s.v ⟨s.rnd.val, hrnd⟩, rnd := ⟨s.rnd.val + 1, Nat.succ_lt_succ hrnd⟩ } := by
  rw [exec_of_open (i := .cRound) rfl hact (decide_eq_false (Nat.ne_of_lt hrnd)), ← State.runRound_of_lt]
  rfl

/-- Settles O38: the two checks of C_ROUND in their order, and its effect on a round that is left. -/
theorem cRoundRunsTheNextRound : Obligations.CRoundRunsTheNextRound := by
  refine ⟨fun s r hact hr t1 t2 ht1 ht2 => ?_, fun s hact => exec_notActive_of_idle rfl hact, fun s hact hrnd => ?_,
    takesNoOperands_of_dataReserved (i := .cRound) (by decide)⟩
  · have hlt : s.rnd.val < 64 := by omega
    have hround : (⟨s.rnd.val, hlt⟩ : Fin 64) = r := Fin.ext hr
    have hnext : (⟨s.rnd.val + 1, Nat.succ_lt_succ hlt⟩ : Fin 65) = r.succ := Fin.ext (congrArg Nat.succ hr)
    rw [exec_cRound_of_lt hact hlt, hround, hnext, ht1, ht2]
    rfl
  · exact exec_fail_of_open (i := .cRound) rfl hact (decide_eq_true (congrArg Fin.val hrnd))

/-! C_FINISH. -/

theorem exec_cFinish_of_done {s : State} (hact : s.act = true) (hrnd : s.rnd = 64) :
    exec .cFinish s = .next s.finishCompression :=
  exec_of_open (i := .cFinish) rfl hact (decide_eq_false (not_not_intro (congrArg Fin.val hrnd)))

theorem addRegisters_getElem (h v : Registers) (i : Nat) (hi : i < 8) : (addRegisters h v)[i] = h[i] + v[i] := by
  obtain rfl | rfl | rfl | rfl | rfl | rfl | rfl | rfl :
    i = 0 ∨ i = 1 ∨ i = 2 ∨ i = 3 ∨ i = 4 ∨ i = 5 ∨ i = 6 ∨ i = 7 := by omega
  all_goals rfl

/-- Settles O39: the two checks of C_FINISH in their order, and its effect word by word. -/
theorem cFinishAddsVIntoH : Obligations.CFinishAddsVIntoH := by
  refine ⟨fun s hact hrnd => ⟨addRegisters s.h s.v, exec_cFinish_of_done hact hrnd, fun i hi => ?_⟩,
    fun s hact => exec_notActive_of_idle rfl hact, fun s hact hrnd => ?_,
    takesNoOperands_of_dataReserved (i := .cFinish) (by decide)⟩
  · rw [addRegisters_getElem, BitVec.toNat_add]
  · exact exec_fail_of_open (i := .cFinish) rfl hact (decide_eq_true fun h => hrnd (Fin.ext h))

end Sys2Proof.Machine
end

section
/-! COMPRESS is the source's `compress` (42_compressor.md R134, R135), and C_START, 64 C_ROUND and C_FINISH do the same in
steps (R136). -/

namespace Sys2Proof.Machine

theorem registers_toList (v : Registers) : v.toList = [v[0], v[1], v[2], v[3], v[4], v[5], v[6], v[7]] := by
  conv_lhs => rw [← Vector.ofFn_getElem (xs := v), Vector.toList_ofFn]
  rfl

theorem compressionRound_toList (w : Schedule) (v : Registers) (r : Fin 64) :
    (compressionRound w v r).toList = Reference.mix v.toList (K r, w[r.val]) := by
  rw [registers_toList v]
  rfl

/-- Round by round the registers go through the source's fold over K and the schedule. -/
theorem rounds_toList (w : Schedule) (v : Registers) (n : Nat) (hn : n ≤ 64) :
    (rounds w v n hn).toList = ((List.zip kTable w.toList).take n).foldl Reference.mix v.toList := by
  induction n with
  | zero => rfl
  | succ n ih =>
    have hlen : n < (List.zip kTable w.toList).length := by simpa [kTable_length] using hn
    rw [rounds_succ, compressionRound_toList, ih (Nat.le_of_succ_le hn), List.take_succ_eq_append_getElem hlen,
      List.foldl_append, List.getElem_zip]
    rfl

theorem rounds_all_toList (w : Schedule) (v : Registers) :
    (rounds w v 64 (Nat.le_refl 64)).toList = (List.zip kTable w.toList).foldl Reference.mix v.toList := by
  rw [rounds_toList, List.take_of_length_le (by simp [kTable_length])]

theorem addRegisters_toList (h v : Registers) :
    (addRegisters h v).toList = List.zipWith (· + ·) h.toList v.toList := by
  rw [registers_toList h, registers_toList v]
  rfl

/-- The final addition after the 64 rounds is the source's `compress` (R134). -/
theorem addRegisters_rounds_toList (w : Schedule) (h : Registers) :
    (addRegisters h (rounds w h 64 (Nat.le_refl 64))).toList = Reference.compress h.toList w.toList := by
  rw [addRegisters_toList, rounds_all_toList, Reference.compress]

theorem exec_compress_of_idle {s : State} (hact : s.act = false) : exec .compress s = .next s.compressWhole :=
  exec_of_pass (i := .compress) (firstError_cons_of_passes hact [])

/-- Settles O40: the rounds are the source's fold, and the final addition its sum word by word. -/
theorem compressIsTheSourceCompress : Obligations.CompressIsTheSourceCompress :=
  ⟨fun s hact => ⟨_, _, exec_compress_of_idle hact, addRegisters_rounds_toList s.w s.h, rounds_all_toList s.w s.h⟩,
    fun _ hact => exec_busy_of_act rfl hact, takesNoOperands_of_dataReserved (i := .compress) (by decide)⟩

/-- C_START and then `n` C_ROUND: V is the first n rounds of the H it was copied from. -/
def State.afterRounds (s : State) (n : Nat) (hn : n ≤ 64) : State :=
  { s.openCompression with v := rounds s.w s.h n hn, rnd := ⟨n, Nat.lt_succ_of_le hn⟩ }

theorem exec_cRound_afterRounds (s : State) {n : Nat} (hn : n < 64) :
    exec .cRound (s.afterRounds n (Nat.le_of_lt hn)) = .next (s.afterRounds (n + 1) hn) :=
  exec_cRound_of_lt rfl hn

theorem execAll_replicate_cRound (s : State) (n : Nat) (hn : n ≤ 64) (is : List Instr) :
    execAll (List.replicate n .cRound ++ is) s.openCompression = execAll is (s.afterRounds n hn) := by
  induction n generalizing is with
  | zero => rfl
  | succ n ih =>
    rw [List.replicate_succ', List.append_assoc, ih (Nat.le_of_succ_le hn)]
    exact execAll_cons_of_exec (exec_cRound_afterRounds s hn) is

/-- From a state with no compression open, closing the one begun there after its 64 rounds leaves what COMPRESS leaves. -/
theorem finishCompression_afterRounds {s : State} (hact : s.act = false) (hrnd : s.rnd = 0) :
    (s.afterRounds 64 (Nat.le_refl 64)).finishCompression = s.compressWhole := by
  rw [State.compressWhole, hact, hrnd]
  rfl

/-- Settles O41: one command after another, and the last one leaves what COMPRESS leaves. -/
theorem stepCommandsEqualCompress : Obligations.StepCommandsEqualCompress := by
  intro s hact hrnd
  rw [List.cons_append, execAll_cons_of_exec (exec_cStart_of_idle hact),
    execAll_replicate_cRound s 64 (Nat.le_refl 64), execAll_singleton (exec_cFinish_of_done rfl rfl),
    exec_compress_of_idle hact, finishCompression_afterRounds hact hrnd]

end Sys2Proof.Machine
end

section
/-! BLOCK: one padded block loaded, expanded and compressed (43_composite.md R150). -/

namespace Sys2Proof.Machine

/-- BLOCK's effect changes H, W and V alone. -/
theorem State.processBlock_frame (s : State) (j : Nat) :
    s.processBlock j =
      { s with h := (s.processBlock j).h, w := (s.processBlock j).w, v := (s.processBlock j).v } := by
  simp only [State.processBlock, State.loadBlock, State.expandSchedule, State.compressWhole]

theorem processBlock_w_toList (s : State) (j : Nat) :
    (s.processBlock j).w.toList = Reference.expand (paddedBlock s.msg j) :=
  expandWords_loadWords_toList s.msg j s.w

theorem processBlock_h_toList (s : State) (j : Nat) :
    (s.processBlock j).h.toList = Reference.compress s.h.toList (Reference.expand (paddedBlock s.msg j)) := by
  rw [← processBlock_w_toList, State.processBlock_h, State.processBlock_w, addRegisters_rounds_toList]

theorem processBlock_v_toList (s : State) (j : Nat) :
    (s.processBlock j).v.toList =
      (List.zip kTable (Reference.expand (paddedBlock s.msg j))).foldl Reference.mix s.h.toList := by
  rw [← processBlock_w_toList, State.processBlock_v, State.processBlock_w, rounds_all_toList]

theorem exec_block_of_paddedBlock {s : State} {j : BitVec 32} (hact : s.act = false) (hpadv : s.padv = true)
    (hj : j.toNat < blockCount s.msg.length) : exec (.block j) s = .next (s.processBlock j.toNat) :=
  exec_of_paddedBlock (i := .block j) rfl hact hpadv hj

/-- The three commands BLOCK stands for, each of which finds the checks of BLOCK passed. -/
theorem execAll_load_expand_compress {s : State} {j : BitVec 32} (hact : s.act = false) (hpadv : s.padv = true)
    (hj : j.toNat < blockCount s.msg.length) :
    execAll [.wLoad j, .wExpand, .compress] s = .next (s.processBlock j.toNat) := by
  have hload : exec (.wLoad j) s = .next (s.loadBlock j.toNat) := exec_wLoad_of_paddedBlock hact hpadv hj
  have hexpand : exec .wExpand (s.loadBlock j.toNat) = .next (s.loadBlock j.toNat).expandSchedule :=
    exec_wExpand_of_idle (by simpa using hact)
  have hcompress : exec .compress (s.loadBlock j.toNat).expandSchedule = .next (s.processBlock j.toNat) :=
    exec_compress_of_idle (by simpa using hact)
  rw [execAll_cons_of_exec hload, execAll_cons_of_exec hexpand, execAll_singleton hcompress]

/-- Settles O43: BLOCK and its three commands run the same effect, whose schedule is the source's `expand` of it. -/
theorem blockProcessesOneBlock : Obligations.BlockProcessesOneBlock := by
  refine ⟨fun s j hact hpadv hj => ?_,
    fun s j => ⟨exec_busy_of_act rfl, exec_noPad_of_disarmed rfl, exec_blockRange_of_ge rfl⟩,
    takesBlockIndex_of_operands (fun _ => rfl) (fun _ => rfl) (by decide)⟩
  have hblock := exec_block_of_paddedBlock hact hpadv hj
  exact ⟨_, _, _, hblock.trans (congrArg _ (s.processBlock_frame j.toNat)),
    hblock.trans (execAll_load_expand_compress hact hpadv hj).symm, paddedBlock s.msg j.toNat, by simp [blocks_pad, hj],
    processBlock_w_toList _ _, processBlock_h_toList _ _, processBlock_v_toList _ _⟩

end Sys2Proof.Machine
end

section
/-! HASH: every padded block in order from IV (43_composite.md R151), which H_INIT and one BLOCK for each do as well
(R153). -/

namespace Sys2Proof.Machine

@[simp] theorem State.processBlocks_act (n : Nat) (s : State) : (s.processBlocks n).act = s.act := by
  rw [State.processBlocks_frame]

@[simp] theorem State.processBlocks_msg (n : Nat) (s : State) : (s.processBlocks n).msg = s.msg := by
  rw [State.processBlocks_frame]

@[simp] theorem State.processBlocks_padv (n : Nat) (s : State) : (s.processBlocks n).padv = s.padv := by
  rw [State.processBlocks_frame]

/-- The source's chain of HashStates over the first `n` padded blocks of `m`, from `st` (R151). -/
def chainBlocks (m : Memory) (n : Nat) (st : List Word) : List Word :=
  ((List.range n).map (paddedBlock m)).foldl (fun h b => Reference.compress h (Reference.expand b)) st

theorem chainBlocks_succ (m : Memory) (n : Nat) (st : List Word) :
    chainBlocks m (n + 1) st = Reference.compress (chainBlocks m n st) (Reference.expand (paddedBlock m n)) := by
  simp [chainBlocks, List.range_succ]

theorem hashState_eq_chainBlocks (m : Memory) :
    Reference.hashState m.bytes = chainBlocks m (blockCount m.length) IV.toList := by
  rw [Reference.hashState, blocks_pad, chainBlocks]

/-- Block by block H goes through the source's chain. -/
theorem processBlocks_h_toList (n : Nat) (s : State) :
    (s.processBlocks n).h.toList = chainBlocks s.msg n s.h.toList := by
  induction n with
  | zero => rfl
  | succ n ih => rw [State.processBlocks_succ, processBlock_h_toList, State.processBlocks_msg, ih, chainBlocks_succ]

/-- The padded message has at least one block. -/
theorem blockCount_eq_succ (len : Nat) : blockCount len = blockCount len - 1 + 1 := by
  unfold blockCount
  omega

theorem blocks_pad_eq_concat (m : Memory) :
    Reference.blocks (Reference.pad m.bytes) =
      (List.range (blockCount m.length - 1)).map (paddedBlock m) ++ [paddedBlock m (blockCount m.length - 1)] := by
  rw [blocks_pad, congrArg List.range (blockCount_eq_succ m.length), List.range_succ, List.map_append,
    List.map_singleton]

section
variable {s : State} (hpadv : s.padv = true)
include hpadv

/-- HASH runs the blocks before the last one, and then the last one. -/
theorem hashMessage_eq_last :
    s.hashMessage =
      (s.loadIV.processBlocks (blockCount s.msg.length - 1)).processBlock (blockCount s.msg.length - 1) := by
  rw [State.hashMessage, s.nb_of_padv hpadv, State.len, ← State.processBlocks_succ, ← blockCount_eq_succ]

theorem hashMessage_h_toList : s.hashMessage.h.toList = Reference.hashState s.msg.bytes := by
  rw [State.hashMessage, s.nb_of_padv hpadv, processBlocks_h_toList, hashState_eq_chainBlocks]
  rfl

theorem hashMessage_w_toList :
    s.hashMessage.w.toList = Reference.expand (paddedBlock s.msg (blockCount s.msg.length - 1)) := by
  rw [hashMessage_eq_last hpadv, processBlock_w_toList, State.processBlocks_msg, State.loadIV_msg]

theorem hashMessage_v_toList :
    s.hashMessage.v.toList =
      (List.zip kTable (Reference.expand (paddedBlock s.msg (blockCount s.msg.length - 1)))).foldl Reference.mix
        (chainBlocks s.msg (blockCount s.msg.length - 1) IV.toList) := by
  rw [hashMessage_eq_last hpadv, processBlock_v_toList, processBlocks_h_toList, State.processBlocks_msg,
    State.loadIV_msg, State.loadIV_h]

/-- What HASH leaves in H, W and V depends on the message alone, which it keeps. -/
theorem hashMessage_idempotent : s.hashMessage.hashMessage = s.hashMessage := by
  have hpadv' : s.hashMessage.padv = true := by rw [State.hashMessage_padv, hpadv]
  have hh : s.hashMessage.hashMessage.h = s.hashMessage.h := by
    rw [← Vector.toList_inj, hashMessage_h_toList hpadv', hashMessage_h_toList hpadv, State.hashMessage_msg]
  have hw : s.hashMessage.hashMessage.w = s.hashMessage.w := by
    rw [← Vector.toList_inj, hashMessage_w_toList hpadv', hashMessage_w_toList hpadv, State.hashMessage_msg]
  have hv : s.hashMessage.hashMessage.v = s.hashMessage.v := by
    rw [← Vector.toList_inj, hashMessage_v_toList hpadv', hashMessage_v_toList hpadv, State.hashMessage_msg]
  rw [State.hashMessage_frame s.hashMessage, hh, hw, hv]

theorem exec_hash_of_padded (hact : s.act = false) : exec .hash s = .next s.hashMessage := by
  refine exec_of_pass (i := .hash) ?_
  rw [checksOf, firstError_cons_of_passes hact, firstError_cons_of_passes (checkPadded_passes hpadv)]
  rfl

end

theorem exec_hash_of_disarmed {s : State} (hact : s.act = false) (hpadv : s.padv = false) :
    exec .hash s = .next (s.raise .noPad 0x41) := by
  refine exec_of_fail (i := .hash) ?_
  rw [checksOf, firstError_cons_of_passes hact]
  exact firstError_cons_of_fails (checkPadded_fails hpadv) _

/-- Settles O44: the chain of blocks for H, the last block for W and V, and none depends on the H, W and V before. -/
theorem hashProcessesEveryBlock : Obligations.HashProcessesEveryBlock := by
  refine ⟨fun s hact hpadv => ?_, fun s => ⟨exec_busy_of_act rfl, exec_hash_of_disarmed⟩,
    takesNoOperands_of_dataReserved (i := .hash) (by decide)⟩
  refine ⟨s.hashMessage.h, s.hashMessage.v, s.hashMessage.w, ?_, hashMessage_h_toList hpadv,
    ⟨_, _, blocks_pad_eq_concat s.msg, hashMessage_w_toList hpadv, hashMessage_v_toList hpadv⟩, ?_⟩
  · rw [← State.hashMessage_frame, exec_hash_of_padded hpadv hact]
  · rw [← State.hashMessage_frame, exec_hash_of_padded (by simpa using hpadv) (by simpa using hact),
      hashMessage_idempotent hpadv]

/-- BLOCK 0, ..., BLOCK n-1 run the block loop. -/
theorem execAll_blocks {s : State} (hact : s.act = false) (hpadv : s.padv = true) (n : Nat)
    (hn : n ≤ blockCount s.msg.length) (hlim : n ≤ 2 ^ 32) (is : List Instr) :
    execAll ((List.range n).map (fun j => .block (BitVec.ofNat 32 j)) ++ is) s = execAll is (s.processBlocks n) := by
  induction n generalizing is with
  | zero => rfl
  | succ n ih =>
    have hindex : (BitVec.ofNat 32 n).toNat = n := Nat.mod_eq_of_lt hlim
    have hblock : exec (.block (BitVec.ofNat 32 n)) (s.processBlocks n) = .next (s.processBlocks (n + 1)) := by
      rw [exec_block_of_paddedBlock (by simpa using hact) (by simpa using hpadv) (by simpa [hindex] using hn), hindex,
        State.processBlocks_succ]
    rw [List.range_succ, List.map_append, List.append_assoc, ih (Nat.le_of_succ_le hn) (Nat.le_of_succ_le hlim)]
    exact execAll_cons_of_exec hblock is

/-- Settles O45: H_INIT loads IV, and the blocks run HASH's loop. -/
theorem hashEqualsInitThenBlocks : Obligations.HashEqualsInitThenBlocks := by
  intro s hact hpadv hlim
  have hblocks := execAll_blocks (s := s.loadIV) hact hpadv (blockCount s.msg.length) (Nat.le_refl _) hlim []
  rw [List.append_nil] at hblocks
  rw [execAll_cons_of_exec (exec_hInit_of_idle hact), hblocks, exec_hash_of_padded hpadv hact, State.hashMessage,
    s.nb_of_padv hpadv]
  rfl

end Sys2Proof.Machine
end

section
/-! The whole command sequence hashes the message (43_composite.md R152). -/

namespace Sys2Proof.Machine

/-- One MSG_APPEND for each byte appends the bytes in order, while there is room, and changes nothing else but PADV. -/
theorem execAll_appends (m : List Byte) (is : List Instr) {s : State} (hroom : s.len + m.length ≤ s.capacity) :
    ∃ (mem : Memory) (padv : Bool),
      execAll (m.map .msgAppend ++ is) s = execAll is { s with msg := mem, padv := padv } ∧
        mem.bytes = s.msg.bytes ++ m := by
  induction m generalizing s with
  | nil => exact ⟨s.msg, s.padv, rfl, (List.append_nil _).symm⟩
  | cons b m ih =>
    rw [List.length_cons] at hroom
    have hlen : (s.appendByte b).len = s.len + 1 := Memory.append_length s.msg b
    have hcapacity : (s.appendByte b).capacity = s.capacity := rfl
    obtain ⟨mem, padv, hrun, hbytes⟩ := ih (s := s.appendByte b) (by omega)
    refine ⟨mem, padv, (execAll_cons_of_exec (exec_msgAppend_of_room b (by omega)) _).trans hrun, ?_⟩
    rw [hbytes, State.appendByte_msg, Memory.append_bytes, List.append_assoc]
    rfl

/-- MSG_CLEAR, the bytes and PAD leave exactly the message in the buffer, armed, and change nothing else. -/
theorem execAll_message {s : State} {m : List Byte} (hroom : m.length ≤ s.capacity) (is : List Instr) :
    ∃ mem : Memory, mem.bytes = m ∧
      execAll (.msgClear :: m.map .msgAppend ++ .pad :: is) s = execAll is { s with msg := mem, padv := true } := by
  have hroom' : s.clearMessage.len + m.length ≤ s.clearMessage.capacity := (Nat.zero_add _).trans_le hroom
  obtain ⟨mem, padv, hrun, hbytes⟩ := execAll_appends m (.pad :: is) hroom'
  have hclear : exec .msgClear s = .next s.clearMessage := exec_of_pass rfl
  have hpad : exec .pad { s.clearMessage with msg := mem, padv := padv } = .next { s with msg := mem, padv := true } :=
    exec_of_pass rfl
  exact ⟨mem, hbytes, (execAll_cons_of_exec hclear _).trans (hrun.trans (execAll_cons_of_exec hpad is))⟩

@[simp] theorem State.hashMessage_err (s : State) : s.hashMessage.err = s.err := by rw [State.hashMessage_frame]

theorem hashMessage_digestBytes {s : State} (hpadv : s.padv = true) :
    s.hashMessage.digestBytes = Reference.hash s.msg.bytes := by
  rw [State.digestBytes, hashMessage_h_toList hpadv, Reference.hash]

/-- Settles O46: the buffer then holds the message, and HASH, or H_INIT and the blocks, leaves its hash. -/
theorem commandSequenceHashesTheMessage : Obligations.CommandSequenceHashesTheMessage := by
  refine fun s m hact hroom => ⟨?_, fun hlim => ?_⟩
  · obtain ⟨mem, rfl, hrun⟩ := execAll_message hroom [.hash]
    exact ⟨_, hrun.trans (execAll_singleton (exec_hash_of_padded rfl hact)), State.hashMessage_err _,
      congrArg Memory.bytes (State.hashMessage_msg _), hashMessage_digestBytes rfl⟩
  · obtain ⟨mem, rfl, hrun⟩ := execAll_message hroom
      (.hInit :: (List.range (blockCount m.length)).map fun j => .block (BitVec.ofNat 32 j))
    rw [Memory.bytes_length] at hlim hrun ⊢
    rw [List.append_assoc]
    have hblocks := hashEqualsInitThenBlocks { s with msg := mem, padv := true } hact rfl hlim
    exact ⟨_, hrun.trans (hblocks.symm.trans (exec_hash_of_padded rfl hact)), State.hashMessage_err _,
      hashMessage_digestBytes rfl⟩

end Sys2Proof.Machine
end

section
/-! Errors (60_exceptions.md): every command completes, a failing one changes the error record alone, and what a command
does otherwise does not depend on that record (R160, R163, R164). -/

namespace Sys2Proof.Machine

/-! Completion. -/

theorem exec_completes (i : Instr) (s : State) : ∃ t, exec i s = .next t := ⟨_, exec_eq_attempt i s⟩

theorem issue_completes (cmd : CommandWord) (s : State) : ∃ t, issue cmd s = .next t := by
  cases hdecode : decode cmd with
  | ok i => rw [issue_of_decode_ok hdecode]; exact exec_completes i s
  | error r => exact ⟨_, issue_of_decode_error hdecode s⟩

theorem serve_completes (e : HostEvent) (s : State) : ∃ t, serve e s = .next t := by
  cases e with
  | command cmd => exact issue_completes cmd s
  | read a => exact ⟨_, rfl⟩
  | sample => exact ⟨_, rfl⟩
  | reset => exact ⟨_, rfl⟩

theorem step_of_no_inputs {s : State} (h : s.inputs = []) : step s = .next s := by
  simp only [step, h, waitForHost]

theorem step_completes (s : State) : ∃ t, step s = .next t := by
  cases hin : s.inputs with
  | nil => exact ⟨s, step_of_no_inputs hin⟩
  | cons e rest => rw [step_of_inputs hin]; exact serve_completes e _

/-- Settles O53: a command is `attempt` of its checks and its effect, and a step serves one act of the host or waits. -/
theorem everyStepCompletes : Obligations.EveryStepCompletes := ⟨exec_completes, step_completes⟩

/-! Precision. -/

theorem effectOf_err_ne_true (i : Instr) {s : State} (hs : s.err = false) : (effectOf i s).err ≠ true := by
  obtain ⟨herr, -⟩ := effectOf_keeps i s
  rw [herr, hs]
  exact Bool.false_ne_true

/-- Settles O50: no effect sets ERR, so the command failed a check, and its error is one of the codes 1..9. -/
theorem failingCommandHasNoOtherEffect : Obligations.FailingCommandHasNoOtherEffect := by
  intro i s t hs h ht
  obtain ⟨code, hfail, rfl⟩ | ⟨-, rfl⟩ := exec_cases h
  · rw [State.raise_first s code i.opcode hs]
    exact ⟨rfl, checksOf_code_ne_none hfail⟩
  · exact absurd ht (effectOf_err_ne_true i hs)

/-! The error record steers no command: checks and effects do not look at it. -/

/-- The state with another error record. -/
def State.withRecord (s : State) (err : Bool) (code : ErrorCode) (op : BitVec 8) : State :=
  { s with err := err, ecode := code, eop := op }

section
variable (i : Instr) (s : State) (err : Bool) (code : ErrorCode) (op : BitVec 8)

theorem checksOf_withRecord : checksOf i (s.withRecord err code op) = checksOf i s := by
  cases i <;> rfl

theorem State.processBlocks_withRecord (n : Nat) :
    (s.withRecord err code op).processBlocks n = (s.processBlocks n).withRecord err code op := by
  induction n with
  | zero => rfl
  | succ n ih => rw [State.processBlocks_succ, ih]; rfl

theorem State.runRound_withRecord : (s.withRecord err code op).runRound = s.runRound.withRecord err code op := by
  unfold State.withRecord State.runRound
  split <;> rfl

theorem effectOf_withRecord : effectOf i (s.withRecord err code op) = (effectOf i s).withRecord err code op := by
  cases i
  case cRound => exact s.runRound_withRecord err code op
  case hash => exact s.loadIV.processBlocks_withRecord err code op s.nb
  all_goals rfl

/-- A raised error is in the record alone, so a record written over it leaves nothing of it. -/
theorem State.raise_withRecord (code' : ErrorCode) (op' : BitVec 8) :
    (s.raise code' op').withRecord err code op = s.withRecord err code op := by
  rw [State.raise_frame]
  rfl

/-- From a state with another record a command leaves the same state, but for the record. -/
theorem exec_withRecord {i : Instr} {s t : State} (h : exec i s = .next t) :
    ∃ t', exec i (s.withRecord err code op) = .next t' ∧ t'.withRecord t.err t.ecode t.eop = t := by
  have hchecks := checksOf_withRecord i s err code op
  obtain ⟨code', hfail, rfl⟩ | ⟨hpass, rfl⟩ := exec_cases h
  · refine ⟨_, exec_of_fail (hchecks.symm ▸ hfail), ?_⟩
    rw [State.raise_withRecord]
    exact (s.raise_withRecord _ _ _ code' i.opcode).symm
  · refine ⟨_, exec_of_pass (hchecks.symm ▸ hpass), ?_⟩
    rw [effectOf_withRecord]
    rfl

end

/-- Settles O51: the checks and the effect are the same with either record, and an error is in the record alone. -/
theorem errorRecordDoesNotSteerCommands : Obligations.ErrorRecordDoesNotSteerCommands :=
  fun _ _ _ err code op h => exec_withRecord err code op h

end Sys2Proof.Machine
end

section
/-! Which error a command word raises (60_exceptions.md R161, R165), and which errors each opcode can raise (R162). -/

namespace Sys2Proof.Machine

/-! The two causes that the decoder finds. -/

theorem errorCause_illegalOpcode_iff {cmd : CommandWord} {s : State} :
    errorCause cmd s .illegalOpcode = true ↔ decode cmd = .error .illegalOpcode := by
  simp [errorCause, decode_illegalOpcode_iff]

/-- Each arm of the decoder checks the fields that R61 reserves for its opcode. -/
theorem reservedFieldSet_of_decode {cmd : CommandWord} (h : decode cmd = .error .reservedField) :
    reservedFieldSet cmd := by
  unfold decode at h
  split at h
  case h_2 hop => -- MSG_APPEND
    obtain ⟨hset, -⟩ := requireZero_error.mp h
    rw [← Bool.not_eq_true, byteOperandOnly_iff, not_and_or, Nat.not_le] at hset
    exact hset.imp (⟨by rw [hop]; decide, ·⟩) (.inr ⟨opField_of_toNat hop, ·⟩)
  case h_5 | h_7 | h_15 => cases h -- an index and a word, or not assigned
  case h_6 hop | h_13 hop => -- a block index
    obtain ⟨hset, -⟩ := requireZero_error.mp h
    rw [← Bool.not_eq_true, idxIsZero_iff] at hset
    exact .inl ⟨by rw [hop]; decide, hset⟩
  all_goals -- no operands
    next hop =>
      obtain ⟨hset, -⟩ := requireZero_error.mp h
      rw [← Bool.not_eq_true, operandsAreZero_iff, not_and_or] at hset
      exact hset.imp (⟨by rw [hop]; decide, ·⟩) (.inl ⟨by rw [hop]; decide, ·⟩)

theorem errorCause_reservedField_iff {cmd : CommandWord} {s : State} :
    errorCause cmd s .reservedField = true ↔ decode cmd = .error .reservedField := by
  have hset : errorCause cmd s .reservedField = true ↔ reservedFieldSet cmd := by
    simp [errorCause, reservedFieldSet, or_assoc]
  exact hset.trans ⟨decode_of_reservedFieldSet, reservedFieldSet_of_decode⟩

theorem find?_errorCause_of_decode_error {cmd : CommandWord} {r : Rejection} (h : decode cmd = .error r) (s : State) :
    errorOrder.find? (errorCause cmd s) = some (rejectionCode r) := by
  cases r with
  | illegalOpcode => exact List.find?_cons_of_pos (errorCause_illegalOpcode_iff.mpr h)
  | reservedField =>
    have hassigned : ¬ errorCause cmd s .illegalOpcode = true :=
      mt errorCause_illegalOpcode_iff.mp (by rw [h]; exact nofun)
    exact (List.find?_cons_of_neg hassigned).trans (List.find?_cons_of_pos (errorCause_reservedField_iff.mpr h))

/-! The causes that a command finds. -/

/-- The first cause of a list that holds is the first failing one of the causes taken as checks. -/
theorem find?_eq_firstError (p : ErrorCode → Bool) (codes : List ErrorCode) :
    codes.find? p = firstError (codes.map fun code => (p code, code)) := by
  induction codes with
  | nil => rfl
  | cons code codes ih => cases h : p code <;> simp [firstError, h, ih]

theorem decode_encode_ne_error (i : Instr) (r : Rejection) : decode (encode i) ≠ .error r := by
  rw [decode_encode]
  exact nofun

/-- Of the causes of R161 those in the row of a command are its checks, in the order it makes them, and no other holds of
its encoding. -/
theorem find?_errorCause_encode (i : Instr) (s : State) :
    errorOrder.find? (errorCause (encode i) s) = firstError (checksOf i s) := by
  have hillegal : errorCause (encode i) s .illegalOpcode = false :=
    Bool.eq_false_iff.mpr (mt errorCause_illegalOpcode_iff.mp (decode_encode_ne_error i _))
  have hreserved : errorCause (encode i) s .reservedField = false :=
    Bool.eq_false_iff.mpr (mt errorCause_reservedField_iff.mp (decode_encode_ne_error i _))
  simp only [find?_eq_firstError, errorOrder, List.map_cons, List.map_nil, hillegal, hreserved]
  cases i
  case cRound | cFinish =>
    simp [firstError, errorCause, Instr.opcode, checksOf, State.checkOpen, State.checkRoundLeft, State.checkRoundsDone,
      Fin.ext_iff]
  all_goals
    simp [firstError, errorCause, Instr.opcode, Instr.idxOperand, Instr.dataOperand, checksOf, hIndexBad, wIndexBad,
      blockIndexBad, State.checkRoom, State.checkIdle, State.checkPadded, State.checkBlock]

/-! What a word does. -/

/-- A word raises the error of its first cause; without a cause it has the effect of a command. -/
theorem issue_cases_of_cause (cmd : CommandWord) (s : State) :
    (∃ code, errorOrder.find? (errorCause cmd s) = some code ∧ issue cmd s = .next (s.raise code (opField cmd))) ∨
      (errorOrder.find? (errorCause cmd s) = none ∧ ∃ i, issue cmd s = .next (effectOf i s)) := by
  cases hdecode : decode cmd with
  | error r => exact .inl ⟨_, find?_errorCause_of_decode_error hdecode s, issue_of_decode_error hdecode s⟩
  | ok i =>
    obtain rfl := encode_of_decode hdecode
    rw [find?_errorCause_encode, issue_encode, opField_encode]
    cases hchecks : firstError (checksOf i s) with
    | some code => exact .inl ⟨code, rfl, exec_of_fail hchecks⟩
    | none => exact .inr ⟨rfl, i, exec_of_pass hchecks⟩

/-- Settles O48, by what a word does: an effect keeps the error record. -/
theorem firstCauseInOrderIsReported : Obligations.FirstCauseInOrderIsReported := by
  intro s cmd
  obtain ⟨code, hcause, h⟩ | ⟨hcause, i, h⟩ := issue_cases_of_cause cmd s
  · rw [hcause, h]
    exact ⟨fun _ hcode => by rw [Option.some.inj hcode], nofun⟩
  · rw [hcause, h]
    obtain ⟨herr, hecode, heop, -⟩ := effectOf_keeps i s
    exact ⟨nofun, fun _ => ⟨_, rfl, herr, hecode, heop⟩⟩

/-! The table of R162. -/

theorem errorRow_of_unassigned {n : Nat} (h : n ∉ assignedOpcodes) : errorRow n = [.illegalOpcode] := by
  unfold errorRow
  split
  case h_15 => rfl
  all_goals exact absurd (by decide) h

/-- A cause that names its opcodes is marked for each of them. -/
theorem mem_errorRow_of_contains {n : Nat} {ops : List Nat} {code : ErrorCode} (hrow : ∀ n ∈ ops, code ∈ errorRow n)
    (h : ops.contains n = true) : code ∈ errorRow n := hrow n (List.contains_iff_mem.mp h)

/-- A cause of R161 holds only for opcodes that its column of R162 marks. -/
theorem mem_errorRow_of_errorCause {cmd : CommandWord} {s : State} {code : ErrorCode}
    (h : errorCause cmd s code = true) : code ∈ errorRow (opField cmd).toNat := by
  cases code with
  | none => cases h
  | illegalOpcode =>
    rw [errorRow_of_unassigned (decode_illegalOpcode_iff.mp (errorCause_illegalOpcode_iff.mp h))]
    exact List.mem_singleton.mpr rfl
  | reservedField =>
    obtain ⟨hop, -⟩ | ⟨hop, -⟩ | ⟨hop, -⟩ := reservedFieldSet_of_decode (errorCause_reservedField_iff.mp h)
    · exact (by decide : ∀ n ∈ idxReserved, .reservedField ∈ errorRow n) _ hop
    · exact (by decide : ∀ n ∈ dataReserved, .reservedField ∈ errorRow n) _ hop
    · rw [hop]; decide
  | busy | notActive | noPad | blockRange => exact mem_errorRow_of_contains (by decide) (Bool.and_elim_left h)
  | badIndex | roundOrder =>
    simp only [errorCause, Bool.or_eq_true, Bool.and_eq_true, beq_iff_eq] at h
    obtain ⟨hop, -⟩ | ⟨hop, -⟩ := h <;> rw [hop] <;> decide
  | msgFull =>
    have hop : opField cmd = 0x02 := beq_iff_eq.mp (Bool.and_elim_left h)
    rw [hop]
    decide

/-- A word with a given opcode for each error: it clears the fields but those that the error is about. -/
def markedWord (op : BitVec 8) : ErrorCode → CommandWord
  | .reservedField => assembleFields op 1 0
  | .badIndex => assembleFields op 64 0
  | .blockRange => assembleFields op 0 1
  | _ => assembleFields op 0 0

/-- A state without an error for each error. ROUND_ORDER takes all rounds done for C_ROUND, and none for C_FINISH. -/
def markedState (op : BitVec 8) : ErrorCode → State
  | .busy => { State.reset with act := true }
  | .roundOrder => { State.reset with act := true, rnd := if op = 0x31 then 64 else 0 }
  | .blockRange => { State.reset with padv := true }
  | .msgFull => { State.reset with config := { maxMsgBytes := 0 } }
  | _ => State.reset

theorem opField_markedWord (op : BitVec 8) (code : ErrorCode) : opField (markedWord op code) = op := by
  cases code <;> simp [markedWord]

theorem markedState_err (op : BitVec 8) (code : ErrorCode) : (markedState op code).err = false := by
  cases code <;> rfl

/-- Mark by mark of the table's assigned opcodes. -/
theorem find?_errorCause_of_mark :
    ∀ n ∈ assignedOpcodes, ∀ code ∈ errorRow n, errorOrder.find?
      (errorCause (markedWord (BitVec.ofNat 8 n) code) (markedState (BitVec.ofNat 8 n) code)) = some code := by
  decide

theorem find?_errorCause_marked {op : BitVec 8} {code : ErrorCode} (h : code ∈ errorRow op.toNat) :
    errorOrder.find? (errorCause (markedWord op code) (markedState op code)) = some code := by
  by_cases hop : op.toNat ∈ assignedOpcodes
  · simpa using find?_errorCause_of_mark op.toNat hop code h
  · rw [errorRow_of_unassigned hop, List.mem_singleton] at h
    subst h
    refine find?_errorCause_of_decode_error (decode_illegalOpcode_iff.mpr ?_) _
    rwa [opField_markedWord]

/-- Settles O49: an error that is raised has its cause, and so its mark, and each mark has a word and a state with that
first cause. -/
theorem errorTableIsExact : Obligations.ErrorTableIsExact := by
  refine ⟨fun op code => ⟨?_, fun hmark => ?_⟩, unassignedOpcodeFailsAsIllegal.1⟩
  · rintro ⟨s, t, cmd, rfl, hs, h, ht, rfl⟩
    obtain ⟨code, hcause, hraise⟩ | ⟨-, i, heffect⟩ := issue_cases_of_cause cmd s
    · rw [hraise, State.raise_first s _ _ hs] at h
      cases h
      exact mem_errorRow_of_errorCause (List.find?_some hcause)
    · rw [heffect] at h
      cases h
      exact absurd ht (effectOf_err_ne_true i hs)
  · have hs := markedState_err op code
    have hraise := (firstCauseInOrderIsReported _ _).1 code (find?_errorCause_marked hmark)
    rw [State.raise_first _ _ _ hs] at hraise
    exact ⟨_, _, _, opField_markedWord op code, hs, hraise, rfl, rfl⟩

end Sys2Proof.Machine
end

section
/-! While a compression is open (70_reset_and_hazards.md R180, R186): what a command can still do, and that the compression
computes `compress` of the H and W it started from, whatever the host does before C_FINISH. -/

namespace Sys2Proof.Machine

/-! The block waits. -/

/-- Settles O20: a step serves the host's oldest act, and there is none. -/
theorem blockWaitsForTheHost : Obligations.BlockWaitsForTheHost := fun _ => step_of_no_inputs

/-! The interlock. -/

/-- With a compression open the checks leave C_ROUND, C_FINISH and the padder's commands, which write MSG and PADV alone. -/
theorem effectOf_cases_of_open {i : Instr} {s : State} (hact : s.act = true) (hpass : firstError (checksOf i s) = none) :
    (i = .cRound ∧ s.rnd.val < 64) ∨ i = .cFinish ∨
      effectOf i s = { s with msg := (effectOf i s).msg, padv := (effectOf i s).padv } := by
  cases i
  case cRound =>
    have hleft : s.rnd.val ≠ 64 :=
      of_decide_eq_false (firstError_none_iff.mp hpass s.checkRoundLeft (by simp [checksOf]))
    exact .inl ⟨rfl, by omega⟩
  case cFinish => exact .inr (.inl rfl)
  case msgClear | msgAppend | pad => exact .inr (.inr rfl)
  all_goals
    have hclosed := act_of_checkIdle_passes (by simp [checksOf]) hpass
    exact absurd hact (by simp [hclosed])

/-- Settles O56, by what a command can do while a compression is open; one that fails writes the error record alone. -/
theorem openCompressionIsInterlocked : Obligations.OpenCompressionIsInterlocked := by
  intro i s t hact h
  obtain ⟨code, -, rfl⟩ | ⟨hpass, rfl⟩ := exec_cases h
  · rw [State.raise_frame]
    exact ⟨rfl, fun _ => ⟨rfl, hact⟩, fun _ => rfl⟩
  · obtain ⟨rfl, -⟩ | rfl | hframe := effectOf_cases_of_open hact hpass
    · exact ⟨s.runRound_w, fun _ => ⟨s.runRound_h, s.runRound_act.trans hact⟩, absurd rfl⟩
    · exact ⟨rfl, absurd rfl, fun _ => rfl⟩
    · rw [hframe]
      exact ⟨rfl, fun _ => ⟨rfl, hact⟩, fun _ => rfl⟩

/-! The open compression. -/

/-- A compression that started from `h` and `w` is open: both are still there, and V is their first RND rounds (R186). -/
structure State.Compressing (s : State) (h : Registers) (w : Schedule) : Prop where
  act_eq : s.act = true
  h_eq : s.h = h
  w_eq : s.w = w
  v_eq : s.v = rounds w h s.rnd.val (Nat.le_of_lt_succ s.rnd.isLt)

theorem State.openCompression_compressing (s : State) : s.openCompression.Compressing s.h s.w := ⟨rfl, rfl, rfl, rfl⟩

theorem State.Inv.compressing {s : State} (hs : s.Inv) (hact : s.act = true) : s.Compressing s.h s.w :=
  ⟨hact, rfl, rfl, hs.open_v hact⟩

section
variable {s t : State} {h : Registers} {w : Schedule} (hs : s.Compressing h w)
include hs

/-- The message, the error record, the host's acts and the replies are no part of a compression. -/
theorem State.Compressing.other_fields (msg : Memory) (padv err : Bool) (ecode : ErrorCode) (eop : BitVec 8)
    (inputs : List HostEvent) (replies : List Reply) :
    { s with msg := msg, padv := padv, err := err, ecode := ecode, eop := eop, inputs := inputs,
             replies := replies }.Compressing h w :=
  ⟨hs.act_eq, hs.h_eq, hs.w_eq, hs.v_eq⟩

theorem State.Compressing.raise (code : ErrorCode) (op : BitVec 8) : (s.raise code op).Compressing h w := by
  rw [State.raise_frame]
  exact hs.other_fields ..

theorem State.Compressing.runRound (hrnd : s.rnd.val < 64) : s.runRound.Compressing h w := by
  obtain ⟨hact, rfl, rfl, hv⟩ := hs
  rw [State.runRound_of_lt s hrnd]
  exact ⟨hact, rfl, rfl, by rw [rounds_succ, ← hv]⟩

/-- Of the effects that the checks let happen, C_FINISH's closes the compression and all others keep it. -/
theorem State.Compressing.after_effect {i : Instr} (hpass : firstError (checksOf i s) = none)
    (hopen : (effectOf i s).act = true) : (effectOf i s).Compressing h w := by
  obtain ⟨rfl, hrnd⟩ | rfl | hframe := effectOf_cases_of_open hs.act_eq hpass
  · exact hs.runRound hrnd
  · cases hopen
  · rw [hframe]
    exact hs.other_fields ..

/-- No act of the host disturbs a compression that it leaves open. -/
theorem State.Compressing.step (hstep : step s = .next t) (hopen : t.act = true) : t.Compressing h w := by
  obtain rfl | ⟨e, rest, -, hserve⟩ := step_cases hstep
  · exact hs
  · have hs' : { s with inputs := rest }.Compressing h w := hs.other_fields ..
    obtain ⟨code, op, -, rfl⟩ | ⟨_, i, -, -, hpass, rfl⟩ | ⟨reply, rfl⟩ | ⟨-, rfl⟩ := serve_cases hserve
    · exact hs'.raise code op
    · exact hs'.after_effect hpass hopen
    · exact hs'.other_fields ..
    · cases hopen

/-- After the 64th round the final addition makes H the source's `compress` (R133, R134). -/
theorem State.Compressing.exec_cFinish_h_toList (hrnd : s.rnd = 64) (hexec : exec .cFinish s = .next t) :
    t.h.toList = Reference.compress h.toList w.toList := by
  obtain ⟨hact, rfl, rfl, hv⟩ := hs
  have hall : s.v = rounds s.w s.h 64 (Nat.le_refl 64) := by simpa [hrnd] using hv
  rw [exec_cFinish_of_done hact hrnd] at hexec
  cases hexec
  rw [State.finishCompression_h, hall, addRegisters_rounds_toList]

end

/-- By induction on the number of steps: the first one leaves the compression open, and so do those after it. -/
theorem State.Compressing.run {s u : State} {h : Registers} {w : Schedule} {n : Nat} (hs : s.Compressing h w)
    (hopen : ∀ k, k ≤ n → ∃ v, Sys2Proof.core.run k s = .next v ∧ v.act = true)
    (hrun : Sys2Proof.core.run n s = .next u) : u.Compressing h w := by
  induction n generalizing s with
  | zero => cases hrun; exact hs
  | succ n ih =>
    obtain ⟨t, hstep⟩ := step_completes s
    have hsucc := run_succ_of_step (M := Sys2Proof.core) hstep
    have ht : t.act = true := by
      obtain ⟨v, hv, hact⟩ := hopen 1 (Nat.le_add_left 1 n)
      rw [hsucc 0] at hv
      cases hv
      exact hact
    exact ih (hs.step hstep ht) (fun k hk => hsucc k ▸ hopen (k + 1) (Nat.succ_le_succ hk)) (hsucc n ▸ hrun)

/-- Settles O42: C_START opens a compression from H and W, the run keeps it, and so does the invariant in one state. -/
theorem openCompressionComputesCompress : Obligations.OpenCompressionComputesCompress := by
  refine ⟨fun s s₀ u n hact hstart hopen hrun => ?_, fun s t hs hact hrnd => (hs.compressing hact).exec_cFinish_h_toList hrnd⟩
  rw [exec_cStart_of_idle hact] at hstart
  cases hstart
  have hu := s.openCompression_compressing.run hopen hrun
  exact ⟨hu.h_eq, hu.w_eq, fun t => hu.exec_cFinish_h_toList⟩

end Sys2Proof.Machine
end
